-- ==== Sys2Proof/Word.lean ====
section
/-! DEFINITION. The word types of the codec: spec/00_scope.md rule R11 and spec/30_encoding.md rules R70, R78 and R82 give
their widths. All of them are unsigned (R13). -/

namespace Sys2Proof

/-- A tick register of a TimingProfile: TICKW = 32 bits (R11, R22). -/
abbrev Tick := BitVec 32

/-- The duration field of an entry: DUR_BITS = 15 bits, at most 32767 ticks (R9, R70). -/
abbrev Duration := BitVec 15

/-- One element of a PulseSequence, a 32-bit word holding a pulse pair (R70). -/
abbrev Entry := BitVec 32

/-- The 16-bit counts of R11: buffer capacity, cursor, entry count, the parser's length. -/
abbrev Count := BitVec 16

/-- The 16-bit handle of an externally owned RX sequence. 0 is the null reference (R35). -/
abbrev Handle := BitVec 16

/-- The address half of a scan code: ADDR_BITS = 16 (R9). -/
abbrev Address := BitVec 16

/-- The command half of a scan code: CMD_BITS = 32 (R9). -/
abbrev Command := BitVec 32

/-- The 48 data bits of a frame as one value, command above address (R77). -/
abbrev FrameData := BitVec 48

/-- A command word on a sub-block's command port (R78). -/
abbrev CommandWord := BitVec 64

/-- A response word on a sub-block's response port (R82). -/
abbrev ResponseWord := BitVec 64

end Sys2Proof
end

