-- ==== Sys2Proof/Syntax.lean ====
section
/-! DEFINITION. The commands of the codec as syntax: one constructor per row of spec/opcode_table.json
(spec/30_encoding.md rules R79 and R80). The operands carry the field widths of R79, so a field cannot be out of range. -/

namespace Sys2Proof

/-- The two sub-blocks (R4). They share no state (R20). -/
inductive SubBlock where
  /-- the encoder, the source's FrameBuilder -/
  | enc
  /-- the decoder, the source's FrameParser -/
  | dec
  deriving DecidableEq, Repr

/-- The ten commands (R80). -/
inductive Instr where
  /-- E_CFG, format CE: construct the builder (R104) -/
  | eCfg (clkHz : BitVec 32) (cap : Count) (ext inv : Bool)
  /-- E_RESET, format N: zero the cursor (R123) -/
  | eReset
  /-- E_HEAD, format N: append the head entry (R124) -/
  | eHead
  /-- E_BIT, format V: append one data bit's entry (R125) -/
  | eBit (value : Bool)
  /-- E_END, format N: append the ending entry and the terminator (R126) -/
  | eEnd
  /-- E_BUILD, format AC: validate and build a whole frame (R132) -/
  | eBuild (address : Address) (command : Command)
  /-- E_RESULT, format N: the entry count of the populated sequence (R136) -/
  | eResult
  /-- D_CFG, format CD: construct the parser (R108) -/
  | dCfg (clkHz : BitVec 32) (marginUs : BitVec 16) (ext inv : Bool)
  /-- D_INPUT, format RL: store a reference to a sequence (R151) -/
  | dInput (ref : Handle) (length : Count)
  /-- D_DECODE, format N: decode the stored sequence (R162) -/
  | dDecode
  deriving DecidableEq, Repr

/-- The sub-block that executes a command (R80). -/
def Instr.block : Instr → SubBlock
  | .eCfg _ _ _ _ => .enc
  | .eReset => .enc
  | .eHead => .enc
  | .eBit _ => .enc
  | .eEnd => .enc
  | .eBuild _ _ => .enc
  | .eResult => .enc
  | .dCfg _ _ _ _ => .dec
  | .dInput _ _ => .dec
  | .dDecode => .dec

/-- The mnemonic of a command, as R80 spells it. -/
def Instr.mnemonic : Instr → String
  | .eCfg _ _ _ _ => "E_CFG"
  | .eReset => "E_RESET"
  | .eHead => "E_HEAD"
  | .eBit _ => "E_BIT"
  | .eEnd => "E_END"
  | .eBuild _ _ => "E_BUILD"
  | .eResult => "E_RESULT"
  | .dCfg _ _ _ _ => "D_CFG"
  | .dInput _ _ => "D_INPUT"
  | .dDecode => "D_DECODE"

/-- Whether a command is its sub-block's configuration command, the source's construction (R100). -/
def Instr.isConfig : Instr → Bool
  | .eCfg _ _ _ _ => true
  | .eReset => false
  | .eHead => false
  | .eBit _ => false
  | .eEnd => false
  | .eBuild _ _ => false
  | .eResult => false
  | .dCfg _ _ _ _ => true
  | .dInput _ _ => false
  | .dDecode => false

/-- What the host does to the codec between resets, one at a time. A command word on the command port is R78; placing
and freeing a sequence are the RX producer's or the host's (spec/20_memory.md rules R53, R60); reading an entry of TXBUF
through the read port is the TX consumer's or the host's (R51). Log entries 3 and 6. -/
inductive HostAction where
  /-- a command word presented on the command port -/
  | command (cw : CommandWord)
  /-- the sequence named `handle` now holds these entries, entry 0 first -/
  | rxPlace (handle : Handle) (entries : List Entry)
  /-- the sequence named `handle` is freed -/
  | rxFree (handle : Handle)
  /-- entry `index` of TXBUF is read through the read port -/
  | txRead (index : Nat)
  deriving DecidableEq, Repr

end Sys2Proof
end

