-- ==== Sys2Proof/Decode.lean ====
section
/-! DEFINITION. Decoding and encoding command words (spec/30_encoding.md rules R78 to R81, R85 and R87). Decoding is
total: every 64-bit word is one of the ten commands or is rejected by name. -/

namespace Sys2Proof

/-- Why a command word is illegal (R85). -/
inductive DecodeError where
  /-- the opcode is 0x7 or 0xB to 0xF -/
  | reservedOpcode (op : BitVec 4)
  /-- the opcode is assigned, and a payload bit its format requires to be 0 is 1 -/
  | mustBeZero (mnemonic : String)
  deriving DecidableEq, Repr

/-- CW[63:60] (R78). -/
def opcodeOf (cw : CommandWord) : BitVec 4 := cw.extractLsb' 60 4

/-- The bits from `lo` up to 59 of the payload are all 0 (R79, the must-be-zero column). -/
def zeroFrom (lo : Nat) (cw : CommandWord) : Bool := cw.extractLsb' lo (60 - lo) == 0

/-- Format N: no operand, CW[59:0] = 0 (R79). -/
def decodeN (i : Instr) (cw : CommandWord) : Except DecodeError Instr :=
  if zeroFrom 0 cw then .ok i else .error (.mustBeZero i.mnemonic)

/-- Format CE (R79). -/
def decodeCE (cw : CommandWord) : Except DecodeError Instr :=
  if zeroFrom 50 cw then
    .ok (.eCfg (cw.extractLsb' 0 32) (cw.extractLsb' 32 16) (cw.getLsbD 48) (cw.getLsbD 49))
  else .error (.mustBeZero "E_CFG")

/-- Format CD (R79). -/
def decodeCD (cw : CommandWord) : Except DecodeError Instr :=
  if zeroFrom 50 cw then
    .ok (.dCfg (cw.extractLsb' 0 32) (cw.extractLsb' 32 16) (cw.getLsbD 48) (cw.getLsbD 49))
  else .error (.mustBeZero "D_CFG")

/-- Format V (R79). -/
def decodeV (cw : CommandWord) : Except DecodeError Instr :=
  if zeroFrom 1 cw then .ok (.eBit (cw.getLsbD 0)) else .error (.mustBeZero "E_BIT")

/-- Format AC (R79). -/
def decodeAC (cw : CommandWord) : Except DecodeError Instr :=
  if zeroFrom 48 cw then .ok (.eBuild (cw.extractLsb' 0 16) (cw.extractLsb' 16 32))
  else .error (.mustBeZero "E_BUILD")

/-- Format RL (R79). -/
def decodeRL (cw : CommandWord) : Except DecodeError Instr :=
  if zeroFrom 32 cw then .ok (.dInput (cw.extractLsb' 16 16) (cw.extractLsb' 0 16))
  else .error (.mustBeZero "D_INPUT")

/-- The opcode map (R80): a command word is decoded by its top four bits alone (R87). -/
def decode (cw : CommandWord) : Except DecodeError Instr :=
  match opcodeOf cw with
  | 0x0#4 => decodeCE cw
  | 0x1#4 => decodeN .eReset cw
  | 0x2#4 => decodeN .eHead cw
  | 0x3#4 => decodeV cw
  | 0x4#4 => decodeN .eEnd cw
  | 0x5#4 => decodeAC cw
  | 0x6#4 => decodeN .eResult cw
  | 0x8#4 => decodeCD cw
  | 0x9#4 => decodeRL cw
  | 0xA#4 => decodeN .dDecode cw
  | op => .error (.reservedOpcode op)

/-- The sub-block a command word is routed to: opcodes 0x0 to 0x7 belong to ENC, 0x8 to 0xF to DEC (R78, R85). -/
def routeOf (cw : CommandWord) : SubBlock := if cw.getLsbD 63 then .dec else .enc

/-- The instruction the decoder reads from a table row's bits: the command word whose low `nbits` bits are those of `w`,
every bit above them 0. A command word is one word of 64 bits, so bit 0 of the table is bit 0 of CW (R78). -/
def decodeTableWord (nbits w : Nat) : Option Instr :=
  match decode (BitVec.ofNat 64 (w % 2 ^ nbits)) with
  | .ok i => some i
  | .error _ => none

/-- A field's value placed with its bit 0 at bit `lo` of the command word (R79). -/
def fieldAt {w : Nat} (lo : Nat) (v : BitVec w) : CommandWord := v.setWidth 64 <<< lo

/-- The command word of a command: opcode in CW[63:60], fields where R79 puts them, every other bit 0. -/
def encode : Instr → CommandWord
  | .eCfg clkHz cap ext inv =>
    fieldAt 60 0x0#4 ||| fieldAt 49 (BitVec.ofBool inv) ||| fieldAt 48 (BitVec.ofBool ext) ||| fieldAt 32 cap |||
      fieldAt 0 clkHz
  | .eReset => fieldAt 60 0x1#4
  | .eHead => fieldAt 60 0x2#4
  | .eBit value => fieldAt 60 0x3#4 ||| fieldAt 0 (BitVec.ofBool value)
  | .eEnd => fieldAt 60 0x4#4
  | .eBuild address command => fieldAt 60 0x5#4 ||| fieldAt 16 command ||| fieldAt 0 address
  | .eResult => fieldAt 60 0x6#4
  | .dCfg clkHz marginUs ext inv =>
    fieldAt 60 0x8#4 ||| fieldAt 49 (BitVec.ofBool inv) ||| fieldAt 48 (BitVec.ofBool ext) ||| fieldAt 32 marginUs |||
      fieldAt 0 clkHz
  | .dInput ref length => fieldAt 60 0x9#4 ||| fieldAt 16 ref ||| fieldAt 0 length
  | .dDecode => fieldAt 60 0xA#4

/-- One row of the match and mask table of R80. -/
structure OpcodeRow where
  mnemonic : String
  pattern : CommandWord
  mask : CommandWord
  deriving DecidableEq, Repr

/-- The row of R80's match and mask table that a command belongs to. -/
def Instr.row : Instr → OpcodeRow
  | .eCfg _ _ _ _ => ⟨"E_CFG", 0x0000000000000000, 0xFFFC000000000000⟩
  | .eReset => ⟨"E_RESET", 0x1000000000000000, 0xFFFFFFFFFFFFFFFF⟩
  | .eHead => ⟨"E_HEAD", 0x2000000000000000, 0xFFFFFFFFFFFFFFFF⟩
  | .eBit _ => ⟨"E_BIT", 0x3000000000000000, 0xFFFFFFFFFFFFFFFE⟩
  | .eEnd => ⟨"E_END", 0x4000000000000000, 0xFFFFFFFFFFFFFFFF⟩
  | .eBuild _ _ => ⟨"E_BUILD", 0x5000000000000000, 0xFFFF000000000000⟩
  | .eResult => ⟨"E_RESULT", 0x6000000000000000, 0xFFFFFFFFFFFFFFFF⟩
  | .dCfg _ _ _ _ => ⟨"D_CFG", 0x8000000000000000, 0xFFFC000000000000⟩
  | .dInput _ _ => ⟨"D_INPUT", 0x9000000000000000, 0xFFFFFFFF00000000⟩
  | .dDecode => ⟨"D_DECODE", 0xA000000000000000, 0xFFFFFFFFFFFFFFFF⟩

/-- R80's match and mask table, in its order. -/
def opcodeTable : List OpcodeRow :=
  [ (Instr.eCfg 0 0 false false).row, Instr.eReset.row, Instr.eHead.row, (Instr.eBit false).row, Instr.eEnd.row,
    (Instr.eBuild 0 0).row, Instr.eResult.row, (Instr.dCfg 0 0 false false).row, (Instr.dInput 0 0).row,
    Instr.dDecode.row ]

/-- A row selects a command word (R80: CW & mask = match). -/
def OpcodeRow.selects (r : OpcodeRow) (cw : CommandWord) : Bool := cw &&& r.mask == r.pattern

/-- The convenience spelling E_BITS: the `n` commands E_BIT value[0] to E_BIT value[n-1], least significant first
(R89). R89 defines it for `n` at most 48. DESIGN CHOICE (log entry 17): this function takes any `n` and goes on with
E_BIT 0 from bit 48 on, which is no spelling of the spec. -/
def eBits (value : FrameData) (n : Nat) : List Instr :=
  (List.range n).map fun i => .eBit (value.getLsbD i)

end Sys2Proof
end

