-- ==== Sys2Proof/Config.lean ====
section
/-! DEFINITION. What is fixed for the hardware (spec/00_scope.md rules R9 and R10) and the one free value of the model. -/

namespace Sys2Proof

/-- The protocol constants in one record (R10 asks for this, so that a corrected value changes one place). The record's
value is Machine.protocol of Machine/Operands.lean. -/
structure Protocol where
  /-- leading code, first segment, in microseconds -/
  leadHiUs : Nat
  /-- leading code, second segment -/
  leadLoUs : Nat
  /-- logic 0, first segment -/
  l0HiUs : Nat
  /-- logic 0, second segment -/
  l0LoUs : Nat
  /-- logic 1, first segment -/
  l1HiUs : Nat
  /-- logic 1, second segment -/
  l1LoUs : Nat
  /-- ending code, first segment -/
  endHiUs : Nat
  /-- ending code, second segment -/
  endLoUs : Nat
  deriving DecidableEq, Repr

/-- DUR_MAX: the largest duration an entry can hold (R9). -/
def Config.durMax : Nat := 32767

/-- FRAME_ENTRIES: head, 48 bits, end (R9). The only length D_INPUT accepts. -/
def Config.frameEntries : Nat := 50

/-- BUILD_ENTRIES: head, 48 bits, end, terminator (R9). -/
def Config.buildEntries : Nat := 51

/-- FREE VALUE (log entry 4). The word that D_DECODE number `draw` sees at entry `index` of sequence `handle` where the
sequence has no such entry: "If the sequence has fewer than 50 entries, the words read past its end are unspecified; a
model takes the 50 words as 50 free inputs (a draw each)" (spec/20_memory.md rule R54, U4, U5). It has no body: no
statement can rest on its value. -/
opaque Config.rxUnspecified (draw : Nat) (handle : Handle) (index : Nat) : Entry

end Sys2Proof
end

