-- ==== Sys2Proof/Machine/State.lean ====
section
/-! DEFINITION. The state of the codec as plain data: everything spec/10_state.md names (rules R20 to R47), the response
and read ports, and the host's inputs. INVENTORY.md lists each field with its rule and its value at reset. -/

namespace Sys2Proof.Machine

/-- The eight template names that index the tick register file (spec/10_state.md rule R22). -/
inductive TickName where
  | leadHi | leadLo | l0Hi | l0Lo | l1Hi | l1Lo | endHi | endLo
  deriving DecidableEq, Repr

/-- The tick register file T (R22), in the index order of R22. -/
structure Ticks where
  leadHi : Tick
  leadLo : Tick
  l0Hi : Tick
  l0Lo : Tick
  l1Hi : Tick
  l1Lo : Tick
  endHi : Tick
  endLo : Tick
  deriving DecidableEq, Repr

/-- A TimingProfile: eight tick registers, a margin, two variant flags (R20, R22, R25, R28). -/
structure TimingProfile where
  ticks : Ticks
  margin : Tick
  inverted : Bool
  ext : Bool
  deriving DecidableEq, Repr

/-- The five error kinds, in the source's order (spec/60_exceptions.md rule R200). -/
inductive ErrorKind where
  | invalidArgument
  | protocolMismatch
  | bufferOverflow
  | lengthMismatch
  | decodeFailure
  deriving DecidableEq, Repr

/-- The result of a decode (spec/10_state.md rule R44). The field isRepeat is the source's `repeat`, always false. -/
structure ScanCode where
  address : Address
  command : Command
  isRepeat : Bool
  deriving DecidableEq, Repr

/-- The data of a successful response (spec/30_encoding.md rule R84): present only with status OK. -/
inductive ResponseData where
  /-- no data: every command but E_RESULT and D_DECODE -/
  | empty
  /-- the entry count of E_RESULT -/
  | count (n : Count)
  /-- the scan code of D_DECODE -/
  | scan (code : ScanCode)
  deriving DecidableEq, Repr

/-- A response (R82, R84): the data exists only when the status is OK, "so that no claim can read the data of a failed
response". -/
inductive Response where
  | ok (data : ResponseData)
  | fail (error : ErrorKind)
  deriving DecidableEq, Repr

/-- An entry-addressed memory (or the family of RX sequences by handle): (index, value) pairs, indices strictly rising,
an unlisted index holds no value (R38, R41). -/
abbrev Cells (α : Type) := List (Nat × α)

/-- The encoder ENC (R34). Its TXBUF lists the written entries. -/
structure Enc where
  configured : Bool
  profile : TimingProfile
  capacity : Count
  cursor : Count
  txbuf : Cells Entry
  deriving DecidableEq, Repr

/-- The decoder DEC (R37). -/
structure Dec where
  configured : Bool
  profile : TimingProfile
  ref : Handle
  len : Count
  lastAddr : Address
  lastCmd : Command
  deriving DecidableEq, Repr

/-- The whole machine. The fields `enc` and `dec` are the architectural state of R20; the others are the environment and
the ports (INVENTORY.md). -/
structure State where
  /-- the encoder and its TXBUF -/
  enc : Enc
  /-- the decoder -/
  dec : Dec
  /-- RXSEQ: the externally owned sequences by handle, never written by the codec (R53) -/
  rxseq : Cells (List Entry)
  /-- the model's own counter of D_DECODE commands that read RXSEQ, for free words (R54, log entry 4) -/
  rxDraws : Nat
  /-- the latest response on ENC's response port (R82) -/
  encRsp : Option Response
  /-- the latest response on DEC's response port (R82) -/
  decRsp : Option Response
  /-- the latest word on the TXBUF read port (R51) -/
  txOut : Option Entry
  /-- what the host has issued and the codec has not yet taken, oldest first (R30, R245) -/
  pending : List HostAction
  deriving DecidableEq, Repr

/-- Why the model stops with a fault. No command faults: the host's reads and placements do. All are safe: the spec
gives these accesses no value. -/
inductive Fault where
  /-- raised by a TXBUF read (txRead) while ENC is unconfigured (spec/20_memory.md rule R52). Safe. -/
  | txUnconfigured (index : Nat)
  /-- raised by a TXBUF read at or above the capacity (R52). Safe. -/
  | txOutOfRange (index : Nat)
  /-- raised by a TXBUF read of an unwritten entry (R41, R52). Safe. -/
  | txUnwritten (index : Nat)
  /-- raised by rxPlace or rxFree naming the null handle, which names no sequence (R35, R53). Safe. -/
  | rxNullHandle
  deriving DecidableEq, Repr

/-- Why the model refuses. -/
inductive Refusal where
  /-- raised by exec's arms for an instruction without a meaning yet. Safe. -/
  | notModelled (mnemonic : String)
  /-- raised by E_HEAD, E_BIT, E_END, and E_BUILD past its validation, when a template does not fit 15 bits: "what the
  hardware stores is unspecified. A model gives such a command no meaning (it refuses it)" (spec/41_encoder.md rule
  R128). Safe. -/
  | unrepresentable
  deriving DecidableEq, Repr

/-- The tick registers at reset: unspecified (R24), zero here (DESIGN CHOICE, log entry 1). -/
def Ticks.reset : Ticks :=
  { leadHi := 0, leadLo := 0, l0Hi := 0, l0Lo := 0, l1Hi := 0, l1Lo := 0, endHi := 0, endLo := 0 }

/-- A TimingProfile at reset: unspecified (R24, R27, R28), zero here (DESIGN CHOICE, log entry 1). -/
def TimingProfile.reset : TimingProfile :=
  { ticks := Ticks.reset, margin := 0, inverted := false, ext := false }

/-- ENC after power-on reset: unconfigured (R47, R230), TXBUF unwritten, the rest unspecified (log entry 1). -/
def Enc.reset : Enc :=
  { configured := false, profile := TimingProfile.reset, capacity := 0, cursor := 0, txbuf := [] }

/-- DEC after power-on reset: unconfigured (R47, R230), the rest unspecified (log entry 1). -/
def Dec.reset : Dec :=
  { configured := false, profile := TimingProfile.reset, ref := 0, len := 0, lastAddr := 0, lastCmd := 0 }

/-- The machine right after power-on reset (R230): both sub-blocks unconfigured, nothing issued, nothing answered. -/
def State.reset : State :=
  { enc := Enc.reset, dec := Dec.reset, rxseq := [], rxDraws := 0, encRsp := none, decRsp := none, txOut := none,
    pending := [] }

end Sys2Proof.Machine
end

