-- ==== Sys2Proof/Machine/Operands.lean ====
section
/-! DEFINITION. Operand forms and derived operands: the protocol constants, the conversion from microseconds to ticks
(spec/40_timing_profile.md rules R100, R101), the entry word and its fields (spec/30_encoding.md rules R70 to R74), the
frame (R75, R77) and the response word (R82 to R84). -/

namespace Sys2Proof.Machine

/-- The protocol timing constants (spec/00_scope.md rule R10). UNVERIFIED literals, unsafe: log entry 11. -/
def protocol : Protocol :=
  { leadHiUs := 4280, leadLoUs := 4500, l0HiUs := 560, l0LoUs := 560, l1HiUs := 560, l1LoUs := 1690, endHiUs := 560,
    endLoUs := 5500 }

/-- The denominator of the clock ratio: clk_hz / 1,000,000 ticks per microsecond (R100). -/
def hzPerMegahertz : Nat := 1000000

/-- Ticks(us, clk_hz) = floor(us * clk_hz / 10^6), over the integers (R101). -/
def ticksNat (us clkHz : Nat) : Nat := us * clkHz / hzPerMegahertz

/-- Ticks narrowed to a tick register: it fits for the protocol constants and for every margin (R102 d). -/
def ticksOf (us : Nat) (clkHz : BitVec 32) : Tick := BitVec.ofNat 32 (ticksNat us clkHz.toNat)

/-- The eight tick values a configuration command computes (R104, R108). -/
def ticksFor (clkHz : BitVec 32) : Ticks :=
  { leadHi := ticksOf protocol.leadHiUs clkHz
    leadLo := ticksOf protocol.leadLoUs clkHz
    l0Hi := ticksOf protocol.l0HiUs clkHz
    l0Lo := ticksOf protocol.l0LoUs clkHz
    l1Hi := ticksOf protocol.l1HiUs clkHz
    l1Lo := ticksOf protocol.l1LoUs clkHz
    endHi := ticksOf protocol.endHiUs clkHz
    endLo := ticksOf protocol.endLoUs clkHz }

/-- T[k]: reading the tick register file by template name (R22). -/
def tick (t : Ticks) : TickName → Tick
  | .leadHi => t.leadHi
  | .leadLo => t.leadLo
  | .l0Hi => t.l0Hi
  | .l0Lo => t.l0Lo
  | .l1Hi => t.l1Hi
  | .l1Lo => t.l1Lo
  | .endHi => t.endHi
  | .endLo => t.endLo

/-- Entry(l1, d1, l2, d2) = (l2 << 31) | (d2 << 16) | (l1 << 15) | d1 (R70, R73). The bit positions: UNVERIFIED, log
entry 12. -/
def entryOf (l1 : Bool) (d1 : Duration) (l2 : Bool) (d2 : Duration) : Entry :=
  ((BitVec.ofBool l2).setWidth 32 <<< 31) ||| (d2.setWidth 32 <<< 16) ||| ((BitVec.ofBool l1).setWidth 32 <<< 15) |||
    d1.setWidth 32

/-- L1(w) = w[15] (R73). -/
def level1 (w : Entry) : Bool := w.getLsbD 15

/-- D1(w) = w[14:0] (R73). -/
def dur1 (w : Entry) : Duration := w.extractLsb' 0 15

/-- L2(w) = w[31] (R73). -/
def level2 (w : Entry) : Bool := w.getLsbD 31

/-- D2(w) = w[30:16] (R73). -/
def dur2 (w : Entry) : Duration := w.extractLsb' 16 15

/-- The terminator, the zero word, whatever the polarity (R72). -/
def terminator : Entry := 0

/-- A tick register as an entry's duration. Only used where the register is at most 32767 (R74, R128). -/
def durationOf (t : Tick) : Duration := t.setWidth 15

/-- PairWord(S, hi, lo) (R74): levels by the polarity (R71). -/
def pairWord (p : TimingProfile) (hi lo : TickName) : Entry :=
  entryOf (!p.inverted) (durationOf (tick p.ticks hi)) p.inverted (durationOf (tick p.ticks lo))

/-- The head entry of a profile (R74). -/
def headWord (p : TimingProfile) : Entry := pairWord p .leadHi .leadLo

/-- B(v), the entry of one data bit (R75). -/
def bitWord (p : TimingProfile) (value : Bool) : Entry :=
  if value then pairWord p .l1Hi .l1Lo else pairWord p .l0Hi .l0Lo

/-- The ending entry of a profile, with the ending-low template in its second duration (R74, R126). -/
def endWord (p : TimingProfile) : Entry := pairWord p .endHi .endLo

/-- The entries of the low `n` bits of `v`, least significant first (spec/20_memory.md rule R56). -/
def bitWords (p : TimingProfile) {w : Nat} (v : BitVec w) (n : Nat) : List Entry :=
  (List.range n).map fun i => bitWord p (v.getLsbD i)

/-- The 51 entries of a built sequence (R75): head, 16 address bits, 32 command bits, end, terminator. -/
def frameWords (p : TimingProfile) (address : Address) (command : Command) : List Entry :=
  headWord p :: (bitWords p address 16 ++ (bitWords p command 32 ++ [endWord p, terminator]))

/-- data[47:0] = {command, address} (R77). -/
def dataOf (address : Address) (command : Command) : FrameData :=
  (command.setWidth 48 <<< 16) ||| address.setWidth 48

/-- data[15:0] (R162). -/
def addressOf (data : FrameData) : Address := data.extractLsb' 0 16

/-- data[47:16] (R162). -/
def commandOf (data : FrameData) : Command := data.extractLsb' 16 32

/-- The status code of an error kind (R83). OK is 0. -/
def statusOf : ErrorKind → BitVec 4
  | .invalidArgument => 1
  | .protocolMismatch => 2
  | .bufferOverflow => 3
  | .lengthMismatch => 4
  | .decodeFailure => 5

/-- RSP[59:0] of a successful response (R84). -/
def responseData : ResponseData → BitVec 60
  | .empty => 0
  | .count n => n.setWidth 60
  | .scan code =>
    ((BitVec.ofBool code.isRepeat).setWidth 60 <<< 48) ||| (code.command.setWidth 60 <<< 16) ||| code.address.setWidth 60

/-- The 64-bit response word (R82): status above data, the data of a failed response zero (R84). -/
def responseWord : Response → ResponseWord
  | .ok data => (responseData data).setWidth 64
  | .fail error => (statusOf error).setWidth 64 <<< 60

end Sys2Proof.Machine
end

