-- ==== Sys2Proof/Machine/Flags.lean ====
section
/-! DEFINITION. The one-bit conditions the commands compute: Representable (spec/40_timing_profile.md rule R103), Redundant
(spec/41_encoder.md rule R131), Match, PolarityOK and the classification of entries (spec/42_decoder.md rules R153 to
R161). The codec has no condition-code register (spec/10_state.md rule R29). -/

namespace Sys2Proof.Machine

/-- Representable(S): each of the eight tick registers is at most 32767 (R103). -/
def representable (t : Ticks) : Bool :=
  decide (t.leadHi.toNat ≤ Config.durMax) && decide (t.leadLo.toNat ≤ Config.durMax) &&
  decide (t.l0Hi.toNat ≤ Config.durMax) && decide (t.l0Lo.toNat ≤ Config.durMax) &&
  decide (t.l1Hi.toNat ≤ Config.durMax) && decide (t.l1Lo.toNat ≤ Config.durMax) &&
  decide (t.endHi.toNat ≤ Config.durMax) && decide (t.endLo.toNat ≤ Config.durMax)

/-- Redundant(a, c): the three complement-byte clauses (R131). -/
def redundant (a : Address) (c : Command) : Bool :=
  a.extractLsb' 0 8 == ~~~(a.extractLsb' 8 8) &&
  c.extractLsb' 16 8 == ~~~(c.extractLsb' 24 8) &&
  c.extractLsb' 0 8 == ~~~(c.extractLsb' 8 8)

/-- Match(d, t, m) = (t - m < d) and (d < t + m), over the integers, strict at both ends (R154). -/
def tolerates (d : Duration) (t m : Tick) : Bool :=
  decide ((t.toNat : Int) - m.toNat < d.toNat) && decide ((d.toNat : Int) < t.toNat + m.toNat)

/-- PolarityOK(w): both levels match the expected polarity (R153). -/
def polarityOk (p : TimingProfile) (w : Entry) : Bool :=
  level1 w == !p.inverted && level2 w == p.inverted

/-- An entry classified against a pair of target durations: the levels and both durations match. -/
def matchesPair (p : TimingProfile) (hi lo : Tick) (w : Entry) : Bool :=
  polarityOk p w && tolerates (dur1 w) hi p.margin && tolerates (dur2 w) lo p.margin

/-- HeadOK(w) (R157). -/
def headOk (p : TimingProfile) (w : Entry) : Bool := matchesPair p p.ticks.leadHi p.ticks.leadLo w

/-- EndOK(w): the second duration is compared with zero, not with the ending-low template (R158). -/
def endOk (p : TimingProfile) (w : Entry) : Bool := matchesPair p p.ticks.endHi 0 w

/-- IsZero(w) (R159). -/
def isZero (p : TimingProfile) (w : Entry) : Bool := matchesPair p p.ticks.l0Hi p.ticks.l0Lo w

/-- IsOne(w) (R159). -/
def isOne (p : TimingProfile) (w : Entry) : Bool := matchesPair p p.ticks.l1Hi p.ticks.l1Lo w

/-- BitOf(w): exactly one template must match; both or neither is a failure (R159, R160, R161). DESIGN CHOICE (log entry
18): the second sentence of spec/44_laws.md rule R185 disagrees where a duration moved to the edge of its own window
falls into the other bit's, and R154 and R159 are followed: the entry reads as the other bit. -/
def bitOf (p : TimingProfile) (w : Entry) : Option Bool :=
  match isZero p w, isOne p w with
  | true, false => some false
  | false, true => some true
  | true, true => none
  | false, false => none

/-- The first `n` data bits of a sequence: bit k is read from entry 1 + k, least significant first, and the first failure
aborts (R76, R161, R162). -/
def dataBits (p : TimingProfile) (e : Nat → Entry) : Nat → Option FrameData
  | 0 => some 0
  | n + 1 =>
    match dataBits p e n with
    | none => none
    | some data =>
      match bitOf p (e (1 + n)) with
      | none => none
      | some b => some (data ||| ((BitVec.ofBool b).setWidth 48 <<< n))

/-- The classification of the 50 entries of a sequence: head, then end, then the 48 data bits (R162, R163). -/
def decodeFrame (p : TimingProfile) (e : Nat → Entry) : Option FrameData :=
  if headOk p (e 0) then
    if endOk p (e 49) then dataBits p e 48 else none
  else none

end Sys2Proof.Machine
end

