-- ==== Sys2Proof/Machine/Ops.lean ====
section
/-! DEFINITION. The shared operations: entry-addressed memory, registers, responses, delivering an error, appending to
TXBUF, reading an RX sequence. -/

namespace Sys2Proof.Machine

/-! ## Entry-addressed memory (spec/10_state.md rules R38 and R41) -/

/-- The value at an index: the listed one, or no value. -/
def cellRead {α : Type} : Cells α → Nat → Option α
  | [], _ => none
  | (k, v) :: m, i => if i = k then some v else cellRead m i

/-- Storing a value at an index, keeping the indices rising. -/
def cellWrite {α : Type} : Cells α → Nat → α → Cells α
  | [], i, v => [(i, v)]
  | (k, u) :: m, i, v =>
    if i < k then (i, v) :: (k, u) :: m
    else if i = k then (i, v) :: m
    else (k, u) :: cellWrite m i v

/-- Making an index hold no value. -/
def cellErase {α : Type} : Cells α → Nat → Cells α
  | [], _ => []
  | (k, u) :: m, i => if i = k then m else (k, u) :: cellErase m i

/-- Every listed index is above `n` and the indices rise strictly. -/
def cellsAbove {α : Type} : Nat → Cells α → Bool
  | _, [] => true
  | n, (k, _) :: m => decide (n < k) && cellsAbove k m

/-- The canonical form: indices strictly rising. An unlisted index reads as no value, so no entry equals it. -/
def cellsWf {α : Type} : Cells α → Bool
  | [] => true
  | (k, _) :: m => cellsAbove k m

/-- RXSEQ's canonical form: handles strictly rising, none null (R53), no sequence of no entries (it reads as an unlisted
one). -/
def rxWf (m : Cells (List Entry)) : Bool :=
  cellsWf m && m.all fun c => decide (0 < c.1) && !c.2.isEmpty

/-! ## Updating the state -/

def State.withEnc (s : State) (e : Enc) : State := { s with enc := e }

def State.withDec (s : State) (d : Dec) : State := { s with dec := d }

def State.withRxseq (s : State) (m : Cells (List Entry)) : State := { s with rxseq := m }

/-- The next D_DECODE draws fresh free words (log entry 4). -/
def State.nextDraw (s : State) : State := { s with rxDraws := s.rxDraws + 1 }

def State.withTxOut (s : State) (w : Entry) : State := { s with txOut := some w }

def State.withPending (s : State) (as : List HostAction) : State := { s with pending := as }

/-- Putting a response on a sub-block's response port (R82). -/
def State.respond (s : State) (b : SubBlock) (r : Response) : State :=
  match b with
  | .enc => { s with encRsp := some r }
  | .dec => { s with decRsp := some r }

/-- The response on a sub-block's response port. -/
def State.response (s : State) : SubBlock → Option Response
  | .enc => s.encRsp
  | .dec => s.decRsp

/-- Whether a sub-block is configured (R29). -/
def State.configured (s : State) : SubBlock → Bool
  | .enc => s.enc.configured
  | .dec => s.dec.configured

/-- The cursor moved, nothing else of ENC changed (R31). -/
def Enc.withCursor (e : Enc) (c : Count) : Enc := { e with cursor := c }

/-- The stored reference and its length set, nothing else of DEC changed (R35, R36). -/
def Dec.withInput (d : Dec) (ref : Handle) (len : Count) : Dec := { d with ref := ref, len := len }

/-- The last-decoded hint set, nothing else of DEC changed (R45). -/
def Dec.withLast (d : Dec) (address : Address) (command : Command) : Dec :=
  { d with lastAddr := address, lastCmd := command }

/-! ## Ending a command -/

/-- `return OK(data)`: the command ends with status OK (spec/00_scope.md rule R15). -/
def returnOk (b : SubBlock) (data : ResponseData) (s : State) : Host.Outcome State Fault Refusal :=
  .next (s.respond b (.ok data))

/-- `raise Error`: delivering an error, the counterpart of taking an exception (spec/60_exceptions.md rule R211). The
command ends at once, its response carries the status and no data, "no state is saved anywhere, no mode changes, no
handler address exists", and the sub-block is ready for its next command (R213). -/
def raiseError (b : SubBlock) (e : ErrorKind) (s : State) : Host.Outcome State Fault Refusal :=
  .next (s.respond b (.fail e))

/-! ## Configuration (spec/40_timing_profile.md rules R104, R105, R108) -/

/-- The ENC a successful E_CFG leaves, whatever was there before (R104, R105). -/
def encConstructed (clkHz : BitVec 32) (cap : Count) (ext inv : Bool) : Enc :=
  { configured := true
    profile := { ticks := ticksFor clkHz, margin := 0, inverted := inv, ext := ext }
    capacity := cap
    cursor := 0
    txbuf := [] }

/-- The DEC a successful D_CFG leaves, whatever was there before (R105, R108). The margin converts like the templates
(R109). -/
def decConstructed (clkHz : BitVec 32) (marginUs : BitVec 16) (ext inv : Bool) : Dec :=
  { configured := true
    profile := { ticks := ticksFor clkHz, margin := ticksOf marginUs.toNat clkHz, inverted := inv, ext := ext }
    ref := 0
    len := 0
    lastAddr := 0
    lastCmd := 0 }

/-! ## Appending to TXBUF (spec/41_encoder.md rules R121, R122, R128) -/

/-- What an append leaves: ENC after it succeeded, or ENC after it overflowed. -/
inductive Appended where
  | done (e : Enc)
  | overflow (e : Enc)
  deriving DecidableEq, Repr

/-- Append(w) (R121): at cursor = capacity nothing is written and the cursor is zeroed. -/
def append (w : Entry) (e : Enc) : Appended :=
  if e.cursor = e.capacity then .overflow (e.withCursor 0)
  else .done { e with txbuf := cellWrite e.txbuf e.cursor.toNat w, cursor := e.cursor + 1 }

/-- Appends one after the other, ending at the first that overflows (R121, R127). -/
def appendAll : List Entry → Enc → Appended
  | [], e => .done e
  | w :: ws, e =>
    match append w e with
    | .done e' => appendAll ws e'
    | .overflow e' => .overflow e'

/-- The tail of every emitting command: refuse when a template does not fit 15 bits (R128), else append the entries and
answer OK or BufferOverflow. -/
def emit (ws : List Entry) (s : State) : Host.Outcome State Fault Refusal :=
  if representable s.enc.profile.ticks then
    match appendAll ws s.enc with
    | .done e => returnOk .enc .empty (s.withEnc e)
    | .overflow e => raiseError .enc .bufferOverflow (s.withEnc e)
  else .refused .unrepresentable

/-- "The populated sequence": the entries at indices 0 to cursor - 1 (R42, R136), `none` where one is unwritten (no such
index exists while the invariant of Safety.lean holds). -/
def populated (e : Enc) : List (Option Entry) :=
  (List.range e.cursor.toNat).map fun i => cellRead e.txbuf i

/-! ## Reading RXSEQ (spec/20_memory.md rules R53, R54) -/

/-- The entries of the sequence named by a handle; a handle that names no sequence has none. -/
def rxEntries (m : Cells (List Entry)) (h : Handle) : List Entry := (cellRead m h.toNat).getD []

/-- MemRead(RXSEQ[h], i): the entry, or a free word past the sequence's end (R54, log entry 4). -/
def rxWord (s : State) (h : Handle) (i : Nat) : Entry :=
  ((rxEntries s.rxseq h)[i]?).getD (Config.rxUnspecified s.rxDraws h i)

end Sys2Proof.Machine
end

