-- ==== Sys2Proof/Machine/Decoder.lean ====
section
/-! DEFINITION. The decoder's commands (spec/42_decoder.md). Each begins with the guard of R150 and R203. -/

namespace Sys2Proof.Machine

/-- D_INPUT ref length (R151, R152): the null reference first, then the length. -/
def execDInput (ref : Handle) (length : Count) (s : State) : Host.Outcome State Fault Refusal :=
  if s.dec.configured then
    if ref = 0 then raiseError .dec .invalidArgument s
    else if length.toNat = Config.frameEntries then returnOk .dec .empty (s.withDec (s.dec.withInput ref 50))
    else raiseError .dec .lengthMismatch (s.withDec (s.dec.withInput 0 0))
  else raiseError .dec .invalidArgument s

/-- D_DECODE (R162 to R166): no redundancy check, `repeat` always false, the reference stays stored. -/
def execDDecode (s : State) : Host.Outcome State Fault Refusal :=
  if s.dec.configured then
    if s.dec.ref = 0 then raiseError .dec .invalidArgument s
    else
      match decodeFrame s.dec.profile (rxWord s s.dec.ref) with
      | none => raiseError .dec .decodeFailure s.nextDraw
      | some data =>
        returnOk .dec (.scan { address := addressOf data, command := commandOf data, isRepeat := false })
          (s.nextDraw.withDec (s.dec.withLast (addressOf data) (commandOf data)))
  else raiseError .dec .invalidArgument s

end Sys2Proof.Machine
end

