-- ==== Sys2Proof/Machine/Encoder.lean ====
section
/-! DEFINITION. The encoder's commands (spec/41_encoder.md). Each begins with the guard of R120 and R203. -/

namespace Sys2Proof.Machine

/-- E_RESET (R123). -/
def execEReset (s : State) : Host.Outcome State Fault Refusal :=
  if s.enc.configured then returnOk .enc .empty (s.withEnc (s.enc.withCursor 0))
  else raiseError .enc .invalidArgument s

/-- E_HEAD (R124). -/
def execEHead (s : State) : Host.Outcome State Fault Refusal :=
  if s.enc.configured then emit [headWord s.enc.profile] s
  else raiseError .enc .invalidArgument s

/-- E_BIT value (R125). -/
def execEBit (value : Bool) (s : State) : Host.Outcome State Fault Refusal :=
  if s.enc.configured then emit [bitWord s.enc.profile value] s
  else raiseError .enc .invalidArgument s

/-- E_END (R126, R127): the two appends are checked one after the other. -/
def execEEnd (s : State) : Host.Outcome State Fault Refusal :=
  if s.enc.configured then emit [endWord s.enc.profile, terminator] s
  else raiseError .enc .invalidArgument s

/-- E_BUILD address command (R132 to R135): the cursor is zeroed before the validation (conflict C4). -/
def execEBuild (address : Address) (command : Command) (s : State) : Host.Outcome State Fault Refusal :=
  if s.enc.configured then
    let started := s.withEnc (s.enc.withCursor 0)
    if s.enc.profile.ext = false ∧ redundant address command = false then
      raiseError .enc .protocolMismatch started
    else emit (frameWords s.enc.profile address command) started
  else raiseError .enc .invalidArgument s

/-- E_RESULT (R136): the count is the cursor. -/
def execEResult (s : State) : Host.Outcome State Fault Refusal :=
  if s.enc.configured then returnOk .enc (.count s.enc.cursor) s
  else raiseError .enc .invalidArgument s

end Sys2Proof.Machine
end

