-- ==== Sys2Proof/Machine/Timing.lean ====
section
/-! DEFINITION. The configuration commands E_CFG and D_CFG (spec/40_timing_profile.md). -/

namespace Sys2Proof.Machine

/-- E_CFG (R104 to R107): cap = 0 or clk_hz = 0 is InvalidArgument before any mutation. -/
def execECfg (clkHz : BitVec 32) (cap : Count) (ext inv : Bool) (s : State) : Host.Outcome State Fault Refusal :=
  if cap = 0 ∨ clkHz = 0 then raiseError .enc .invalidArgument s
  else returnOk .enc .empty (s.withEnc (encConstructed clkHz cap ext inv))

/-- D_CFG (R105 to R108): clk_hz = 0 is InvalidArgument before any mutation. -/
def execDCfg (clkHz : BitVec 32) (marginUs : BitVec 16) (ext inv : Bool) (s : State) :
    Host.Outcome State Fault Refusal :=
  if clkHz = 0 then raiseError .dec .invalidArgument s
  else returnOk .dec .empty (s.withDec (decConstructed clkHz marginUs ext inv))

end Sys2Proof.Machine
end

