-- ==== Sys2Proof/Machine/Dispatch.lean ====
section
/-! DEFINITION. One arm per command: its meaning. -/

namespace Sys2Proof.Machine

def exec (i : Instr) (s : State) : Host.Outcome State Fault Refusal :=
  match i with
  | .eCfg clkHz cap ext inv => Sys2Proof.Machine.execECfg clkHz cap ext inv s
  | .eReset => Sys2Proof.Machine.execEReset s
  | .eHead => Sys2Proof.Machine.execEHead s
  | .eBit value => Sys2Proof.Machine.execEBit value s
  | .eEnd => Sys2Proof.Machine.execEEnd s
  | .eBuild address command => Sys2Proof.Machine.execEBuild address command s
  | .eResult => Sys2Proof.Machine.execEResult s
  | .dCfg clkHz marginUs ext inv => Sys2Proof.Machine.execDCfg clkHz marginUs ext inv s
  | .dInput ref length => Sys2Proof.Machine.execDInput ref length s
  | .dDecode => Sys2Proof.Machine.execDDecode s

end Sys2Proof.Machine
end

