-- ==== Sys2Proof/Machine/HostPort.lean ====
section
/-! DEFINITION. What the codec does with one host action: running a command word, the environment's changes to RXSEQ, the
TXBUF read port (spec/10_state.md rule R30, spec/20_memory.md rules R51 to R54, spec/30_encoding.md rule R85). -/

namespace Sys2Proof.Machine

/-- An illegal command word: no state change, InvalidArgument on the port of the sub-block its opcode names (R85). -/
def runIllegal (cw : CommandWord) (s : State) : Host.Outcome State Fault Refusal :=
  raiseError (routeOf cw) .invalidArgument s

/-- A command word: decode it and execute the command, atomically (spec/00_scope.md rule R16). -/
def runCommand (cw : CommandWord) (s : State) : Host.Outcome State Fault Refusal :=
  match decode cw with
  | .ok i => exec i s
  | .error _ => runIllegal cw s

/-- The RX producer or the host makes the sequence of a handle hold these entries (R53). A sequence of no entries is the
same as none. -/
def runRxPlace (handle : Handle) (entries : List Entry) (s : State) : Host.Outcome State Fault Refusal :=
  if handle = 0 then .fault .rxNullHandle
  else if entries.isEmpty then .next (s.withRxseq (cellErase s.rxseq handle.toNat))
  else .next (s.withRxseq (cellWrite s.rxseq handle.toNat entries))

/-- The host frees the sequence of a handle (R53). A stored reference keeps naming it (spec/70_reset_and_hazards.md rule
R236). -/
def runRxFree (handle : Handle) (s : State) : Host.Outcome State Fault Refusal :=
  if handle = 0 then .fault .rxNullHandle
  else .next (s.withRxseq (cellErase s.rxseq handle.toNat))

/-- MemRead(TXBUF, i) through the read port, without side effect (R51, R52). Reads the rule gives no value fault. -/
def runTxRead (index : Nat) (s : State) : Host.Outcome State Fault Refusal :=
  if s.enc.configured then
    if index < s.enc.capacity.toNat then
      match cellRead s.enc.txbuf index with
      | some w => .next (s.withTxOut w)
      | none => .fault (.txUnwritten index)
    else .fault (.txOutOfRange index)
  else .fault (.txUnconfigured index)

/-- One host action. -/
def runAction (a : HostAction) (s : State) : Host.Outcome State Fault Refusal :=
  match a with
  | .command cw => runCommand cw s
  | .rxPlace handle entries => runRxPlace handle entries s
  | .rxFree handle => runRxFree handle s
  | .txRead index => runTxRead index s

/-- The codec takes the oldest action the host has issued; with none issued it is idle and holds its state
(spec/60_exceptions.md rule R221). -/
def takeNext (s : State) : Host.Outcome State Fault Refusal :=
  match s.pending with
  | [] => .next s
  | a :: rest => runAction a (s.withPending rest)

/-- Presenting a command word at the head of what the host has issued. -/
def presentFirst (s : State) (cw : CommandWord) : State := s.withPending (.command cw :: s.pending)

/-- The command word of a table row's bits: the low `nbits` bits of `w`, the bits above them 0. -/
def tableWord (nbits w : Nat) : CommandWord := BitVec.ofNat 64 (w % 2 ^ nbits)

end Sys2Proof.Machine
end

