-- ==== Sys2Proof/Machine/Step.lean ====
section
/-! DEFINITION. One step of the machine, and placing an instruction where the next step takes it. -/

namespace Sys2Proof.Machine

/-- One step: the oldest host action, whole (spec/20_memory.md rule R62). -/
def step (s : State) : Host.Outcome State Fault Refusal := takeNext s

/-- The state with a table row's command word presented first on the command port, so that the next step runs it. The
codec fetches nothing from memory: the host presents commands (spec/10_state.md rule R30, log entry 6). -/
def State.withFetchWord (s : State) (nbits w : Nat) : State := presentFirst s (tableWord nbits w)

end Sys2Proof.Machine
end

