-- ==== Sys2Proof/Machine/Channel.lean ====
section
/-! DEFINITION. What the laws of spec/44_laws.md speak of beside the commands: the ideal channel Loopback (R181), the
predicate Distinguishable (spec/42_decoder.md rule R156), moving a duration (R185), building by hand (R189), the duration
of a sequence (R192).
None of it is done by a command of the codec. -/

namespace Sys2Proof.Machine

/-- Loopback(s) (R181): entries 0 to 48 kept, the second duration of entry 49 zeroed, the terminator dropped. The ideal
channel is the spec's own choice: UNVERIFIED of a real one, log entry 13. R181 defines it for a list of 51 words. DESIGN
CHOICE (log entry 19): this function takes a list of any length, and of another length it keeps the first 49 words, masks
the 50th if there is one and drops the rest, which is no value of the spec. -/
def loopback (s : List Entry) : List Entry :=
  s.take 49 ++ ((s.drop 49).take 1).map fun w => w &&& 0x8000FFFF#32

/-- Distinguishable(S): no pair of 15-bit durations matches both bit templates (R156). The hardware never evaluates
it. -/
def Distinguishable (p : TimingProfile) : Prop :=
  ¬ ∃ d1 d2 : Duration,
    tolerates d1 p.ticks.l0Hi p.margin = true ∧ tolerates d2 p.ticks.l0Lo p.margin = true ∧
    tolerates d1 p.ticks.l1Hi p.margin = true ∧ tolerates d2 p.ticks.l1Lo p.margin = true

/-- The target durations of entry `i` of a received frame with these data bits (R157, R158, R159). -/
def targetsAt (p : TimingProfile) (data : FrameData) (i : Nat) : Tick × Tick :=
  if i = 0 then (p.ticks.leadHi, p.ticks.leadLo)
  else if i = 49 then (p.ticks.endHi, 0)
  else if data.getLsbD (i - 1) then (p.ticks.l1Hi, p.ticks.l1Lo)
  else (p.ticks.l0Hi, p.ticks.l0Lo)

/-- Entry `i` is a data bit and `v` matches the template of the other bit value. -/
def matchesOtherBit (p : TimingProfile) (data : FrameData) (i : Nat) (v : Entry) : Bool :=
  decide (1 ≤ i ∧ i < 49) && if data.getLsbD (i - 1) then isZero p v else isOne p v

/-- `v` is `w` with one of its two durations moved to exactly `k` ticks from that duration's target (R185). -/
def MovedFromTarget (k : Nat) (targets : Tick × Tick) (w v : Entry) : Prop :=
  level1 v = level1 w ∧ level2 v = level2 w ∧
  ((dur2 v = dur2 w ∧ |((dur1 v).toNat : Int) - targets.1.toNat| = k) ∨
    (dur1 v = dur1 w ∧ |((dur2 v).toNat : Int) - targets.2.toNat| = k))

/-- The state with entry `i` of the stored sequence replaced by the host. -/
def withStoredEntry (s : State) (i : Nat) (v : Entry) : State :=
  s.withRxseq (cellWrite s.rxseq s.dec.ref.toNat ((rxEntries s.rxseq s.dec.ref).set i v))

/-- Entry `i` of the frame of R75, read off its table: head, address bits, command bits, end, terminator. -/
def frameEntryAt (p : TimingProfile) (address : Address) (command : Command) (i : Nat) : Entry :=
  if i = 0 then headWord p
  else if i < 17 then bitWord p (address.getLsbD (i - 1))
  else if i < 49 then bitWord p (command.getLsbD (i - 17))
  else if i = 49 then endWord p
  else terminator

/-- The commands that build a frame by hand (R89, R138, R189). -/
def handBuilt (address : Address) (command : Command) : List Instr :=
  .eReset :: .eHead :: (eBits (address.setWidth 48) 16 ++ (eBits (command.setWidth 48) 32 ++ [.eEnd]))

/-- How long a sequence lasts as a waveform: each entry its first level for d1 ticks, then its second for d2 (R192). -/
def sequenceTicks (s : List Entry) : Nat := (s.map fun w => (dur1 w).toNat + (dur2 w).toNat).sum

/-- How many of the low `n` bits of `v` are 1. -/
def onesBelow {w : Nat} (v : BitVec w) (n : Nat) : Nat :=
  ((List.range n).map fun i => (v.getLsbD i).toNat).sum

end Sys2Proof.Machine
end

