-- ==== Sys2Proof/Safety.lean ====
section
/-! DEFINITION. What the statements speak of: running a list of commands or of host actions, what the host observes of a
run (spec/70_reset_and_hazards.md rule R245), and the invariant every step keeps. -/

namespace Sys2Proof.Machine

/-- A list of commands, each executed on the state the one before left; the first stop ends it. -/
def execAll : List Instr → State → Host.Outcome State Fault Refusal
  | [], s => .next s
  | i :: is, s =>
    match exec i s with
    | .next t => execAll is t
    | .fault r => .fault r
    | .refused r => .refused r

/-- A list of host actions, each done on the state the one before left; the first stop ends it. -/
def actAll : List HostAction → State → Host.Outcome State Fault Refusal
  | [], s => .next s
  | a :: as, s =>
    match runAction a s with
    | .next t => actAll as t
    | .fault r => .fault r
    | .refused r => .refused r

/-- What is observable of one action (R245): a command's response, and with a successful E_RESULT's the TXBUF entries
below the cursor, "and nothing else". A read of TXBUF and a change of RXSEQ are no observations. -/
inductive Observation where
  | response (r : Option Response)
  | result (r : Option Response) (entries : List (Option Entry))
  deriving DecidableEq, Repr

/-- The observation of the response that a sub-block's command left: with a count, E_RESULT's, the entries below the
cursor. -/
def observedResponse (b : SubBlock) (s : State) : Observation :=
  match s.response b with
  | some (.ok (.count n)) => .result (some (.ok (.count n))) (populated s.enc)
  | r => .response r

/-- What is observable of an action, in the state it left (R245). -/
def observed (a : HostAction) (s : State) : List Observation :=
  match a with
  | .command cw =>
    match decode cw with
    | .ok i => [observedResponse i.block s]
    | .error _ => [observedResponse (routeOf cw) s]
  | .rxPlace _ _ => []
  | .rxFree _ => []
  | .txRead _ => []

/-- The observable outcome of a run (R245): the observations of its actions in order, up to the first stop. -/
def observe : List HostAction → State → List Observation
  | [], _ => []
  | a :: as, s =>
    match runAction a s with
    | .next t => observed a t ++ observe as t
    | .fault _ => []
    | .refused _ => []

/-- What holds of ENC: TXBUF is in canonical form, and once configured the capacity is at least 1 (R33), the cursor is
within it (R31), the margin is 0 (R26), the tick registers are those of one clock (R23, R104), every written entry is
below the capacity (R38) and every entry below the cursor is written (R42). -/
def EncInv (e : Enc) : Prop :=
  cellsWf e.txbuf = true ∧
  (e.configured = true →
    0 < e.capacity.toNat ∧ e.cursor.toNat ≤ e.capacity.toNat ∧ e.profile.margin = 0 ∧
    (∃ clkHz : BitVec 32, clkHz ≠ 0 ∧ e.profile.ticks = ticksFor clkHz) ∧
    (∀ i w, cellRead e.txbuf i = some w → i < e.capacity.toNat) ∧
    (∀ i, i < e.cursor.toNat → ∃ w, cellRead e.txbuf i = some w))

/-- What holds of DEC once configured: the tick registers and the margin are those of one clock (R23, R25, R108), and the
stored length is 50 with a reference and 0 without (R36). -/
def DecInv (d : Dec) : Prop :=
  d.configured = true →
    (∃ (clkHz : BitVec 32) (marginUs : BitVec 16), clkHz ≠ 0 ∧ d.profile.ticks = ticksFor clkHz ∧
      d.profile.margin = ticksOf marginUs.toNat clkHz) ∧
    ((d.ref = 0 ∧ d.len = 0) ∨ (d.ref ≠ 0 ∧ d.len = 50))

/-- The invariant: of ENC, of DEC, RXSEQ's canonical form, and no scan code on a response port has `repeat` set
(R167). -/
def State.Inv (s : State) : Prop :=
  EncInv s.enc ∧ DecInv s.dec ∧ rxWf s.rxseq = true ∧
  (∀ b code, s.response b = some (.ok (.scan code)) → code.isRepeat = false)

end Sys2Proof.Machine
end

