-- ==== Sys2Proof/Certificates/Slice0/Obligations.lean ====
section
/-! DEFINITION. The statements for the provers, each a rule of spec/ or derived from its rules. OBLIGATIONS.json lists them
with their rules. -/

open Sys2Proof Sys2Proof.Machine

/-! ## Encodings (spec/30_encoding.md) -/

/-- R79, R80: decoding an encoded command gives it back, every operand at every value its field admits. -/
def Obligations.DecodeOfEncodeIsTheCommand : Prop :=
  ∀ i : Instr, decode (encode i) = .ok i

/-- R85: "every 64-bit word is one of the ten commands or illegal": a legal word is the encoding of the command it
decodes to, so no two words are one command and no bit of a legal word is dropped. -/
def Obligations.EncodeOfDecodeIsTheWord : Prop :=
  ∀ (cw : CommandWord) (i : Instr), decode cw = .ok i → encode i = cw

/-- R80: a word selects a command exactly when it agrees with the command's match under its mask. -/
def Obligations.MatchAndMaskSelectCommands : Prop :=
  ∀ cw : CommandWord,
    ((∃ clkHz cap ext inv, decode cw = .ok (.eCfg clkHz cap ext inv)) ↔
      cw &&& 0xFFFC000000000000 = 0x0000000000000000) ∧
    (decode cw = .ok .eReset ↔ cw &&& 0xFFFFFFFFFFFFFFFF = 0x1000000000000000) ∧
    (decode cw = .ok .eHead ↔ cw &&& 0xFFFFFFFFFFFFFFFF = 0x2000000000000000) ∧
    ((∃ value, decode cw = .ok (.eBit value)) ↔ cw &&& 0xFFFFFFFFFFFFFFFE = 0x3000000000000000) ∧
    (decode cw = .ok .eEnd ↔ cw &&& 0xFFFFFFFFFFFFFFFF = 0x4000000000000000) ∧
    ((∃ address command, decode cw = .ok (.eBuild address command)) ↔
      cw &&& 0xFFFF000000000000 = 0x5000000000000000) ∧
    (decode cw = .ok .eResult ↔ cw &&& 0xFFFFFFFFFFFFFFFF = 0x6000000000000000) ∧
    ((∃ clkHz marginUs ext inv, decode cw = .ok (.dCfg clkHz marginUs ext inv)) ↔
      cw &&& 0xFFFC000000000000 = 0x8000000000000000) ∧
    ((∃ ref length, decode cw = .ok (.dInput ref length)) ↔ cw &&& 0xFFFFFFFF00000000 = 0x9000000000000000) ∧
    (decode cw = .ok .dDecode ↔ cw &&& 0xFFFFFFFFFFFFFFFF = 0xA000000000000000)

/-- R79: every format's fields are read from the bits the table gives, and every payload bit a format does not use is
0. -/
def Obligations.FormatsReadTheirFields : Prop :=
  ∀ cw : CommandWord,
    (∀ clkHz cap ext inv, decode cw = .ok (.eCfg clkHz cap ext inv) →
      clkHz = cw.extractLsb' 0 32 ∧ cap = cw.extractLsb' 32 16 ∧ ext = cw.getLsbD 48 ∧ inv = cw.getLsbD 49 ∧
      cw.extractLsb' 50 10 = 0) ∧
    (∀ clkHz marginUs ext inv, decode cw = .ok (.dCfg clkHz marginUs ext inv) →
      clkHz = cw.extractLsb' 0 32 ∧ marginUs = cw.extractLsb' 32 16 ∧ ext = cw.getLsbD 48 ∧ inv = cw.getLsbD 49 ∧
      cw.extractLsb' 50 10 = 0) ∧
    (∀ value, decode cw = .ok (.eBit value) → value = cw.getLsbD 0 ∧ cw.extractLsb' 1 59 = 0) ∧
    (∀ address command, decode cw = .ok (.eBuild address command) →
      address = cw.extractLsb' 0 16 ∧ command = cw.extractLsb' 16 32 ∧ cw.extractLsb' 48 12 = 0) ∧
    (∀ ref length, decode cw = .ok (.dInput ref length) →
      length = cw.extractLsb' 0 16 ∧ ref = cw.extractLsb' 16 16 ∧ cw.extractLsb' 32 28 = 0) ∧
    (∀ i : Instr, (i = .eReset ∨ i = .eHead ∨ i = .eEnd ∨ i = .eResult ∨ i = .dDecode) → decode cw = .ok i →
      cw.extractLsb' 0 60 = 0)

/-- R85: a word that is none of the ten commands changes no state and is answered InvalidArgument with zero data. That
the answer stands on the port of the sub-block its opcode names is the model's rendering (log entry 8). -/
def Obligations.IllegalWordIsAnsweredInvalidArgument : Prop :=
  ∀ (s : State) (cw : CommandWord) (rest : List HostAction),
    s.pending = .command cw :: rest → (∀ r ∈ opcodeTable, cw &&& r.mask ≠ r.pattern) →
    step s = .next (if cw.getLsbD 63 = true then { s with pending := rest, decRsp := some (.fail .invalidArgument) }
      else { s with pending := rest, encRsp := some (.fail .invalidArgument) })

/-- A sanity statement: words written out from R79's fields decode to the commands they stand for. -/
def Obligations.SpelledOutWordsDecode : Prop :=
  decode 0x00030040000F4240 = .ok (.eCfg 1000000 64 true true) ∧
  decode 0x3000000000000001 = .ok (.eBit true) ∧
  decode 0x5000BF4000FFB24D = .ok (.eBuild 0xB24D 0xBF4000FF) ∧
  decode 0x800200C8000F4240 = .ok (.dCfg 1000000 200 false true) ∧
  decode 0x9000000000010032 = .ok (.dInput 1 50) ∧
  decode 0xA000000000000000 = .ok .dDecode ∧
  decode 0x7000000000000000 = .error (.reservedOpcode 7)

/-- R73: Entry is a bijection between four-field records and words, with the accessors as its inverse. -/
def Obligations.EntryWordFields : Prop :=
  (∀ (l1 : Bool) (d1 : Duration) (l2 : Bool) (d2 : Duration),
    (entryOf l1 d1 l2 d2).toNat = l2.toNat * 2 ^ 31 + d2.toNat * 2 ^ 16 + l1.toNat * 2 ^ 15 + d1.toNat ∧
    level1 (entryOf l1 d1 l2 d2) = l1 ∧ dur1 (entryOf l1 d1 l2 d2) = d1 ∧
    level2 (entryOf l1 d1 l2 d2) = l2 ∧ dur2 (entryOf l1 d1 l2 d2) = d2) ∧
  (∀ w : Entry, entryOf (level1 w) (dur1 w) (level2 w) (dur2 w) = w ∧
    level1 w = w.getLsbD 15 ∧ dur1 w = w.extractLsb' 0 15 ∧ level2 w = w.getLsbD 31 ∧ dur2 w = w.extractLsb' 16 15)

/-- R82, R83, R84: the response word has the status in bits 63:60, the data only of a successful E_RESULT or D_DECODE,
every other bit 0, and no status above 5. -/
def Obligations.ResponseWordFields : Prop :=
  (responseWord (.ok .empty) = 0) ∧
  (∀ d : ResponseData, (responseWord (.ok d)).extractLsb' 60 4 = 0) ∧
  (∀ r : Response, (responseWord r).toNat < 6 * 2 ^ 60) ∧
  (∀ n : Count, (responseWord (.ok (.count n))).toNat = n.toNat) ∧
  (∀ code : ScanCode, (responseWord (.ok (.scan code))).toNat =
    code.isRepeat.toNat * 2 ^ 48 + code.command.toNat * 2 ^ 16 + code.address.toNat) ∧
  (responseWord (.fail .invalidArgument) = 0x1000000000000000) ∧
  (responseWord (.fail .protocolMismatch) = 0x2000000000000000) ∧
  (responseWord (.fail .bufferOverflow) = 0x3000000000000000) ∧
  (responseWord (.fail .lengthMismatch) = 0x4000000000000000) ∧
  (responseWord (.fail .decodeFailure) = 0x5000000000000000)

/-! ## Steps, reset, ports -/

/-- A step runs the decoded command: the oldest host action, a command word that decodes to `i`, is taken off what the
host has issued, and the step is `i` executed there. -/
def Obligations.StepRunsTheDecodedCommand : Prop :=
  ∀ (s : State) (cw : CommandWord) (rest : List HostAction) (i : Instr),
    s.pending = .command cw :: rest → decode cw = .ok i → step s = exec i { s with pending := rest }

/-- The other host actions: a sequence placed or freed is RXSEQ's own change (R53), and with nothing issued the codec
holds its state (R221). That they are steps of the model is its own choice (log entries 3 and 6). -/
def Obligations.StepRunsTheHostsOtherActions : Prop :=
  (∀ s : State, s.pending = [] → step s = .next s) ∧
  (∀ (s : State) (h : Handle) (ws : List Entry) (rest : List HostAction),
    s.pending = .rxPlace h ws :: rest → h ≠ 0 → rxWf s.rxseq = true →
    ∃ m, step s = .next { s with pending := rest, rxseq := m } ∧ rxWf m = true ∧
      ∀ g : Handle, rxEntries m g = if g = h then ws else rxEntries s.rxseq g) ∧
  (∀ (s : State) (h : Handle) (rest : List HostAction),
    s.pending = .rxFree h :: rest → h ≠ 0 → rxWf s.rxseq = true →
    ∃ m, step s = .next { s with pending := rest, rxseq := m } ∧ rxWf m = true ∧
      ∀ g : Handle, rxEntries m g = if g = h then [] else rxEntries s.rxseq g)

/-- A read of TXBUF gives the last word stored at a written entry below the capacity, without side effect (R52). That it
FAULTS for an unwritten entry, at or above the capacity, and while ENC is unconfigured is the model's choice (DESIGN
CHOICE, log entry 2): R52 lets a model refuse or fault there. That a write at another index leaves an entry alone, and
that the last write is the one read, is the last clause. -/
def Obligations.TxbufReadPort : Prop :=
  (∀ (s : State) (i : Nat) (rest : List HostAction), s.pending = .txRead i :: rest →
    (∀ w, s.enc.configured = true → i < s.enc.capacity.toNat → cellRead s.enc.txbuf i = some w →
      step s = .next { s with pending := rest, txOut := some w }) ∧
    (s.enc.configured = true → i < s.enc.capacity.toNat → cellRead s.enc.txbuf i = none →
      step s = .fault (.txUnwritten i)) ∧
    (s.enc.configured = true → s.enc.capacity.toNat ≤ i → step s = .fault (.txOutOfRange i)) ∧
    (s.enc.configured = false → step s = .fault (.txUnconfigured i))) ∧
  (∀ (m : Cells Entry) (i j : Nat) (w : Entry),
    cellRead (cellWrite m i w) j = if j = i then some w else cellRead m j)

/-- The machine after power-on reset: both sub-blocks unconfigured (R230), and the invariant holds. That no entry of TXBUF
holds a value at reset is the model's choice (DESIGN CHOICE, log entry 2): R47 leaves every entry unspecified. The zeros of
the other registers are the model's choice too (DESIGN CHOICE, log entry 1) and nothing here names them. -/
def Obligations.ResetMeetsTheInvariant : Prop :=
  State.reset.enc.configured = false ∧ State.reset.dec.configured = false ∧
  (∀ i, cellRead State.reset.enc.txbuf i = none) ∧ State.reset.Inv

/-- R203: while a sub-block is unconfigured every command of it but the configuration command fails with InvalidArgument
and changes nothing. -/
def Obligations.UnconfiguredSubBlockAnswersInvalidArgument : Prop :=
  ∀ (s : State) (i : Instr), i.isConfig = false → s.configured i.block = false →
    exec i s = .next (match i.block with
      | .enc => { s with encRsp := some (.fail .invalidArgument) }
      | .dec => { s with decRsp := some (.fail .invalidArgument) })

/-- R29: the configured bit is 0 at reset, a successful configuration command sets it, no step clears it, and while it is
0 every other command of the sub-block fails with InvalidArgument. -/
def Obligations.ConfiguredIsSetByConfigurationAndNeverCleared : Prop :=
  (∀ b, State.reset.configured b = false) ∧
  (∀ (i : Instr) (s t : State), i.isConfig = true → exec i s = .next t → t.response i.block = some (.ok .empty) →
    t.configured i.block = true) ∧
  (∀ (s t : State) (b : SubBlock), step s = .next t → s.configured b = true → t.configured b = true) ∧
  (∀ (i : Instr) (s : State), i.isConfig = false → s.configured i.block = false →
    ∃ t, exec i s = .next t ∧ t.enc = s.enc ∧ t.dec = s.dec ∧ t.response i.block = some (.fail .invalidArgument))

/-! ## Configuration (spec/40_timing_profile.md) -/

/-- R101, R102: Ticks is the floor of the exact product, monotone, the identity at 1 MHz, zero at zero, and never
truncated by a 32-bit register. -/
def Obligations.TickConversionIsExact : Prop :=
  (∀ us clkHz, ticksNat us clkHz = us * clkHz / 1000000) ∧
  (∀ us us' clkHz clkHz', us ≤ us' → clkHz ≤ clkHz' → ticksNat us clkHz ≤ ticksNat us' clkHz') ∧
  (∀ us, ticksNat us 1000000 = us) ∧ (∀ clkHz, ticksNat 0 clkHz = 0) ∧ (∀ us, ticksNat us 0 = 0) ∧
  (∀ us (clkHz : BitVec 32), us ≤ 5500 → ticksNat us clkHz.toNat < 2 ^ 25) ∧
  (∀ us (clkHz : BitVec 32), us < 2 ^ 16 → ticksNat us clkHz.toNat < 2 ^ 29 ∧
    (ticksOf us clkHz).toNat = ticksNat us clkHz.toNat)

/-- R104, R105, R106: E_CFG on any ENC, configured or not. -/
def Obligations.EncoderConfiguration : Prop :=
  ∀ (s : State) (clkHz : BitVec 32) (cap : Count) (ext inv : Bool),
    opcodeOf (encode (.eCfg clkHz cap ext inv)) = 0x0 ∧
    (cap ≠ 0 → clkHz ≠ 0 → exec (.eCfg clkHz cap ext inv) s = .next
      { s with
        enc :=
          { configured := true
            profile :=
              { ticks :=
                  { leadHi := BitVec.ofNat 32 (4280 * clkHz.toNat / 1000000)
                    leadLo := BitVec.ofNat 32 (4500 * clkHz.toNat / 1000000)
                    l0Hi := BitVec.ofNat 32 (560 * clkHz.toNat / 1000000)
                    l0Lo := BitVec.ofNat 32 (560 * clkHz.toNat / 1000000)
                    l1Hi := BitVec.ofNat 32 (560 * clkHz.toNat / 1000000)
                    l1Lo := BitVec.ofNat 32 (1690 * clkHz.toNat / 1000000)
                    endHi := BitVec.ofNat 32 (560 * clkHz.toNat / 1000000)
                    endLo := BitVec.ofNat 32 (5500 * clkHz.toNat / 1000000) }
                margin := 0
                inverted := inv
                ext := ext }
            capacity := cap
            cursor := 0
            txbuf := [] }
        encRsp := some (.ok .empty) }) ∧
    (cap = 0 ∨ clkHz = 0 → exec (.eCfg clkHz cap ext inv) s = .next
      { s with encRsp := some (.fail .invalidArgument) })

/-- R108, R105, R106: D_CFG on any DEC, configured or not. -/
def Obligations.DecoderConfiguration : Prop :=
  ∀ (s : State) (clkHz : BitVec 32) (marginUs : BitVec 16) (ext inv : Bool),
    opcodeOf (encode (.dCfg clkHz marginUs ext inv)) = 0x8 ∧
    (clkHz ≠ 0 → exec (.dCfg clkHz marginUs ext inv) s = .next
      { s with
        dec :=
          { configured := true
            profile :=
              { ticks :=
                  { leadHi := BitVec.ofNat 32 (4280 * clkHz.toNat / 1000000)
                    leadLo := BitVec.ofNat 32 (4500 * clkHz.toNat / 1000000)
                    l0Hi := BitVec.ofNat 32 (560 * clkHz.toNat / 1000000)
                    l0Lo := BitVec.ofNat 32 (560 * clkHz.toNat / 1000000)
                    l1Hi := BitVec.ofNat 32 (560 * clkHz.toNat / 1000000)
                    l1Lo := BitVec.ofNat 32 (1690 * clkHz.toNat / 1000000)
                    endHi := BitVec.ofNat 32 (560 * clkHz.toNat / 1000000)
                    endLo := BitVec.ofNat 32 (5500 * clkHz.toNat / 1000000) }
                margin := BitVec.ofNat 32 (marginUs.toNat * clkHz.toNat / 1000000)
                inverted := inv
                ext := ext }
            ref := 0
            len := 0
            lastAddr := 0
            lastCmd := 0 }
        decRsp := some (.ok .empty) }) ∧
    (clkHz = 0 → exec (.dCfg clkHz marginUs ext inv) s = .next { s with decRsp := some (.fail .invalidArgument) })

/-- R103: Representable is that every tick register is at most 32767, which for the protocol's constants is that the clock
is at most 5,957,818 Hz, and a configuration command does not check it. -/
def Obligations.RepresentableUpToTheClockCeiling : Prop :=
  (∀ t : Ticks, representable t = true ↔ ∀ k, (tick t k).toNat ≤ 32767) ∧
  (∀ clkHz : BitVec 32, (representable (ticksFor clkHz) = true ↔ ticksNat 5500 clkHz.toNat ≤ 32767) ∧
    (representable (ticksFor clkHz) = true ↔ clkHz.toNat ≤ 5957818) ∧
    ∀ k, (tick (ticksFor clkHz) k).toNat ≤ ticksNat 5500 clkHz.toNat) ∧
  (ticksNat 5500 5957818 = 32767 ∧ ticksNat 5500 5957819 = 32768) ∧
  (∀ (s : State) (clkHz : BitVec 32) (cap : Count) (ext inv : Bool), cap ≠ 0 → clkHz ≠ 0 →
    ∃ t, exec (.eCfg clkHz cap ext inv) s = .next t ∧ t.enc.configured = true ∧ t.enc.profile.ticks = ticksFor clkHz) ∧
  (∀ (s : State) (clkHz : BitVec 32) (marginUs : BitVec 16) (ext inv : Bool), clkHz ≠ 0 →
    ∃ t, exec (.dCfg clkHz marginUs ext inv) s = .next t ∧ t.dec.configured = true ∧
      t.dec.profile.ticks = ticksFor clkHz)

/-- R23, R28, R33: no step but a successful configuration command writes a TimingProfile or the capacity, and that one
replaces the whole instance. -/
def Obligations.ProfilesAreReplacedOnlyByConfiguration : Prop :=
  ∀ s t : State, step s = .next t →
    ((t.enc.profile = s.enc.profile ∧ t.enc.capacity = s.enc.capacity) ∨
      ∃ cw rest clkHz cap ext inv, s.pending = .command cw :: rest ∧ decode cw = .ok (.eCfg clkHz cap ext inv) ∧
        t.enc = encConstructed clkHz cap ext inv) ∧
    (t.dec.profile = s.dec.profile ∨
      ∃ cw rest clkHz marginUs ext inv, s.pending = .command cw :: rest ∧
        decode cw = .ok (.dCfg clkHz marginUs ext inv) ∧ t.dec = decConstructed clkHz marginUs ext inv)

/-! ## The encoder's commands (spec/41_encoder.md) -/

/-- R123: E_RESET zeroes the cursor and nothing else, TXBUF unchanged; after it E_RESULT reports 0 entries. -/
def Obligations.ResetCommandZeroesTheCursor : Prop :=
  decode 0x1000000000000000 = .ok .eReset ∧
  ∀ s : State,
    (s.enc.configured = true → ∃ t, exec .eReset s = .next t ∧
      t = { s with enc := { s.enc with cursor := 0 }, encRsp := some (.ok .empty) } ∧
      exec .eResult t = .next { t with encRsp := some (.ok (.count 0)) }) ∧
    (s.enc.configured = false → exec .eReset s = .next { s with encRsp := some (.fail .invalidArgument) })

/-- R124: E_HEAD appends the head entry at the cursor, or overflows. -/
def Obligations.HeadCommandAppendsTheHead : Prop :=
  decode 0x2000000000000000 = .ok .eHead ∧
  ∀ s : State,
    (s.enc.configured = false → exec .eHead s = .next { s with encRsp := some (.fail .invalidArgument) }) ∧
    (s.enc.configured = true → representable s.enc.profile.ticks = true → s.enc.cursor ≠ s.enc.capacity →
      exec .eHead s = .next
        { s with
          enc :=
            { s.enc with
              txbuf := cellWrite s.enc.txbuf s.enc.cursor.toNat
                (entryOf (!s.enc.profile.inverted) (s.enc.profile.ticks.leadHi.setWidth 15) s.enc.profile.inverted
                  (s.enc.profile.ticks.leadLo.setWidth 15))
              cursor := s.enc.cursor + 1 }
          encRsp := some (.ok .empty) }) ∧
    (s.enc.configured = true → representable s.enc.profile.ticks = true → s.enc.cursor = s.enc.capacity →
      exec .eHead s = .next
        { s with enc := { s.enc with cursor := 0 }, encRsp := some (.fail .bufferOverflow) })

/-- R125: E_BIT appends the entry of its bit's template at the cursor, or overflows. -/
def Obligations.BitCommandAppendsItsTemplate : Prop :=
  decode 0x3000000000000000 = .ok (.eBit false) ∧ decode 0x3000000000000001 = .ok (.eBit true) ∧
  (∀ clkHz, (ticksFor clkHz).l0Hi = (ticksFor clkHz).l1Hi) ∧
  ∀ (s : State) (value : Bool),
    (s.enc.configured = false → exec (.eBit value) s = .next { s with encRsp := some (.fail .invalidArgument) }) ∧
    (s.enc.configured = true → representable s.enc.profile.ticks = true → s.enc.cursor ≠ s.enc.capacity →
      exec (.eBit value) s = .next
        { s with
          enc :=
            { s.enc with
              txbuf := cellWrite s.enc.txbuf s.enc.cursor.toNat
                (if value = true then
                  entryOf (!s.enc.profile.inverted) (s.enc.profile.ticks.l1Hi.setWidth 15) s.enc.profile.inverted
                    (s.enc.profile.ticks.l1Lo.setWidth 15)
                else
                  entryOf (!s.enc.profile.inverted) (s.enc.profile.ticks.l0Hi.setWidth 15) s.enc.profile.inverted
                    (s.enc.profile.ticks.l0Lo.setWidth 15))
              cursor := s.enc.cursor + 1 }
          encRsp := some (.ok .empty) }) ∧
    (s.enc.configured = true → representable s.enc.profile.ticks = true → s.enc.cursor = s.enc.capacity →
      exec (.eBit value) s = .next
        { s with enc := { s.enc with cursor := 0 }, encRsp := some (.fail .bufferOverflow) })

/-- R126, R127: E_END appends the ending entry, with the ending-low template in its second duration, and the terminator,
checked one after the other. -/
def Obligations.EndCommandAppendsEndAndTerminator : Prop :=
  decode 0x4000000000000000 = .ok .eEnd ∧
  ∀ s : State,
    (s.enc.configured = false → exec .eEnd s = .next { s with encRsp := some (.fail .invalidArgument) }) ∧
    (∀ w, w = entryOf (!s.enc.profile.inverted) (s.enc.profile.ticks.endHi.setWidth 15) s.enc.profile.inverted
        (s.enc.profile.ticks.endLo.setWidth 15) →
      s.enc.configured = true → representable s.enc.profile.ticks = true →
      (s.enc.cursor ≠ s.enc.capacity → s.enc.cursor + 1 ≠ s.enc.capacity → exec .eEnd s = .next
        { s with
          enc :=
            { s.enc with
              txbuf := cellWrite (cellWrite s.enc.txbuf s.enc.cursor.toNat w) (s.enc.cursor + 1).toNat 0
              cursor := s.enc.cursor + 1 + 1 }
          encRsp := some (.ok .empty) }) ∧
      (s.enc.cursor + 1 = s.enc.capacity → exec .eEnd s = .next
        { s with
          enc := { s.enc with txbuf := cellWrite s.enc.txbuf s.enc.cursor.toNat w, cursor := 0 }
          encRsp := some (.fail .bufferOverflow) }) ∧
      (s.enc.cursor = s.enc.capacity → exec .eEnd s = .next
        { s with enc := { s.enc with cursor := 0 }, encRsp := some (.fail .bufferOverflow) }))

/-- R75: the words E_BUILD appends are the 51 of R75's table, in index order, each bit's entry by its template. -/
def Obligations.FrameWordsAreTheTable : Prop :=
  ∀ (p : TimingProfile) (a : Address) (c : Command),
    (frameWords p a c).length = 51 ∧
    (frameWords p a c)[0]? = some (entryOf (!p.inverted) (p.ticks.leadHi.setWidth 15) p.inverted
      (p.ticks.leadLo.setWidth 15)) ∧
    (∀ i < 16, (frameWords p a c)[1 + i]? = some (bitWord p (a.getLsbD i))) ∧
    (∀ j < 32, (frameWords p a c)[17 + j]? = some (bitWord p (c.getLsbD j))) ∧
    (frameWords p a c)[49]? = some (entryOf (!p.inverted) (p.ticks.endHi.setWidth 15) p.inverted
      (p.ticks.endLo.setWidth 15)) ∧
    (frameWords p a c)[50]? = some 0 ∧
    bitWord p true = entryOf (!p.inverted) (p.ticks.l1Hi.setWidth 15) p.inverted (p.ticks.l1Lo.setWidth 15) ∧
    bitWord p false = entryOf (!p.inverted) (p.ticks.l0Hi.setWidth 15) p.inverted (p.ticks.l0Lo.setWidth 15) ∧
    (∀ i < 51, (frameWords p a c)[i]? = some (frameEntryAt p a c i))

/-- R135: a successful E_BUILD leaves the frame at indices 0 to 50 and the cursor at 51, whatever the cursor and TXBUF
were before, and changes nothing else. -/
def Obligations.BuildWritesTheFrame : Prop :=
  ∀ (s : State) (a : Address) (c : Command),
    s.enc.configured = true → representable s.enc.profile.ticks = true → 51 ≤ s.enc.capacity.toNat →
    (s.enc.profile.ext = true ∨ redundant a c = true) →
    ∃ m : Cells Entry,
      exec (.eBuild a c) s = .next
        { s with enc := { s.enc with txbuf := m, cursor := 51 }, encRsp := some (.ok .empty) } ∧
      (∀ i < 51, cellRead m i = some (frameEntryAt s.enc.profile a c i)) ∧
      (∀ i, 51 ≤ i → cellRead m i = cellRead s.enc.txbuf i)

/-- R133, R184: a scan code outside the redundancy convention with `ext` = 0 fails with ProtocolMismatch, writes no entry,
and E_RESULT then reports 0. With `ext` = 1 ProtocolMismatch cannot arise. -/
def Obligations.BuildRejectsNonRedundantCodes : Prop :=
  ∀ (s : State) (a : Address) (c : Command), s.enc.configured = true →
    (s.enc.profile.ext = false →
      ¬ (a.extractLsb' 0 8 = ~~~(a.extractLsb' 8 8) ∧ c.extractLsb' 16 8 = ~~~(c.extractLsb' 24 8) ∧
        c.extractLsb' 0 8 = ~~~(c.extractLsb' 8 8)) →
      ∃ t, exec (.eBuild a c) s = .next t ∧
        t = { s with enc := { s.enc with cursor := 0 }, encRsp := some (.fail .protocolMismatch) } ∧
        exec .eResult t = .next { t with encRsp := some (.ok (.count 0)) }) ∧
    (s.enc.profile.ext = true → ∀ t, exec (.eBuild a c) s = .next t → t.encRsp ≠ some (.fail .protocolMismatch))

/-- R134: E_BUILD past its validation overflows exactly when the capacity is below 51: the first `capacity` words of the
frame are written, the cursor is 0, and E_RESULT then reports 0. -/
def Obligations.BuildOverflowsASmallBuffer : Prop :=
  ∀ (s : State) (a : Address) (c : Command),
    s.enc.configured = true → representable s.enc.profile.ticks = true →
    (s.enc.profile.ext = true ∨ redundant a c = true) →
    (s.enc.capacity.toNat < 51 → ∃ (m : Cells Entry) (t : State),
      exec (.eBuild a c) s = .next t ∧
      t = { s with enc := { s.enc with txbuf := m, cursor := 0 }, encRsp := some (.fail .bufferOverflow) } ∧
      (∀ i < s.enc.capacity.toNat, cellRead m i = some (frameEntryAt s.enc.profile a c i)) ∧
      (∀ i, s.enc.capacity.toNat ≤ i → cellRead m i = cellRead s.enc.txbuf i) ∧
      exec .eResult t = .next { t with encRsp := some (.ok (.count 0)) }) ∧
    (51 ≤ s.enc.capacity.toNat → ∃ t, exec (.eBuild a c) s = .next t ∧ t.encRsp = some (.ok .empty))

/-- R131: the redundancy convention, in its complement form, its exclusive-or form and with the bytes of a pair
exchanged. -/
def Obligations.RedundancyConvention : Prop :=
  ∀ (a : Address) (c : Command),
    (redundant a c = true ↔ a.extractLsb' 0 8 = ~~~(a.extractLsb' 8 8) ∧
      c.extractLsb' 16 8 = ~~~(c.extractLsb' 24 8) ∧ c.extractLsb' 0 8 = ~~~(c.extractLsb' 8 8)) ∧
    (redundant a c = true ↔ a.extractLsb' 0 8 ^^^ a.extractLsb' 8 8 = 0xFF ∧
      c.extractLsb' 16 8 ^^^ c.extractLsb' 24 8 = 0xFF ∧ c.extractLsb' 0 8 ^^^ c.extractLsb' 8 8 = 0xFF) ∧
    (redundant a c = true ↔ a.extractLsb' 8 8 = ~~~(a.extractLsb' 0 8) ∧
      c.extractLsb' 24 8 = ~~~(c.extractLsb' 16 8) ∧ c.extractLsb' 8 8 = ~~~(c.extractLsb' 0 8))

/-- R136: E_RESULT reports the cursor as the entry count and changes no state, so it may be repeated. -/
def Obligations.ResultReportsTheCount : Prop :=
  decode 0x6000000000000000 = .ok .eResult ∧
  ∀ s : State,
    (s.enc.configured = true →
      ∃ t, exec .eResult s = .next t ∧ t = { s with encRsp := some (.ok (.count s.enc.cursor)) } ∧
        exec .eResult t = .next t) ∧
    (s.enc.configured = false → exec .eResult s = .next { s with encRsp := some (.fail .invalidArgument) })

/-- R42: the populated sequence, the entries at indices 0 to cursor - 1, is written throughout, in every state that meets
the invariant. -/
def Obligations.PopulatedEntriesAreWritten : Prop :=
  ∀ s : State, s.Inv → s.enc.configured = true →
    ∃ ws : List Entry, populated s.enc = ws.map some ∧ ws.length = s.enc.cursor.toNat ∧
      ∀ i w, ws[i]? = some w →
        step { s with pending := [.txRead i] } = .next { s with pending := [], txOut := some w }

/-- R128: where a template does not fit 15 bits, the emitting commands are refused, E_BUILD once it is past its
validation; E_RESET, E_RESULT and an E_BUILD that fails its validation are defined regardless. -/
def Obligations.UnrepresentableTemplatesAreRefused : Prop :=
  ∀ s : State, s.enc.configured = true → representable s.enc.profile.ticks = false →
    exec .eHead s = .refused .unrepresentable ∧
    (∀ value, exec (.eBit value) s = .refused .unrepresentable) ∧
    exec .eEnd s = .refused .unrepresentable ∧
    (∀ a c, (s.enc.profile.ext = true ∨ redundant a c = true) → exec (.eBuild a c) s = .refused .unrepresentable) ∧
    (∀ a c, s.enc.profile.ext = false → redundant a c = false → ∃ t, exec (.eBuild a c) s = .next t) ∧
    (∃ t, exec .eReset s = .next t) ∧ (∃ t, exec .eResult s = .next t)

/-- The frame of the encoder's commands: DEC, RXSEQ, the configuration of ENC and every entry of TXBUF but the stored ones
are unchanged (R50, R58, R69). -/
def Obligations.EncoderCommandsFrame : Prop :=
  ∀ (s t : State) (i : Instr), i.block = .enc → exec i s = .next t →
    t.dec = s.dec ∧ t.rxseq = s.rxseq ∧ t.rxDraws = s.rxDraws ∧ t.decRsp = s.decRsp ∧ t.txOut = s.txOut ∧
    t.pending = s.pending ∧
    (i.isConfig = false → t.enc.configured = s.enc.configured ∧ t.enc.profile = s.enc.profile ∧
      t.enc.capacity = s.enc.capacity) ∧
    (i = .eReset ∨ i = .eResult → ∀ j, cellRead t.enc.txbuf j = cellRead s.enc.txbuf j) ∧
    (i = .eResult → t.enc.cursor = s.enc.cursor) ∧
    (i = .eHead ∨ (∃ value, i = .eBit value) → ∀ j, j ≠ s.enc.cursor.toNat →
      cellRead t.enc.txbuf j = cellRead s.enc.txbuf j) ∧
    (i = .eEnd → ∀ j, j ≠ s.enc.cursor.toNat → j ≠ (s.enc.cursor + 1).toNat →
      cellRead t.enc.txbuf j = cellRead s.enc.txbuf j) ∧
    ((∃ a c, i = .eBuild a c) → ∀ j, 51 ≤ j → cellRead t.enc.txbuf j = cellRead s.enc.txbuf j)

/-! ## The decoder's commands (spec/42_decoder.md) -/

/-- The frame of the decoder's commands: ENC, TXBUF and RXSEQ are unchanged, and of DEC only what R37 says each command
writes (R50, R69). -/
def Obligations.DecoderCommandsFrame : Prop :=
  ∀ (s t : State) (i : Instr), i.block = .dec → exec i s = .next t →
    t.enc = s.enc ∧ t.rxseq = s.rxseq ∧ t.encRsp = s.encRsp ∧ t.txOut = s.txOut ∧ t.pending = s.pending ∧
    (∀ j, cellRead t.enc.txbuf j = cellRead s.enc.txbuf j) ∧
    (i.isConfig = false → t.dec.configured = s.dec.configured ∧ t.dec.profile = s.dec.profile) ∧
    ((∃ ref length, i = .dInput ref length) → t.dec.lastAddr = s.dec.lastAddr ∧ t.dec.lastCmd = s.dec.lastCmd) ∧
    (i = .dDecode → t.dec.ref = s.dec.ref ∧ t.dec.len = s.dec.len)

/-- R151: D_INPUT stores a non-null reference exactly when the length is 50, whatever the sequence holds. -/
def Obligations.InputStoresOnlyLengthFifty : Prop :=
  ∀ (s : State) (ref : Handle) (length : Count),
    (opcodeOf (encode (.dInput ref length)) = 0x9 ∧ (encode (.dInput ref length)).extractLsb' 0 16 = length ∧
      (encode (.dInput ref length)).extractLsb' 16 16 = ref) ∧
    (s.dec.configured = false → exec (.dInput ref length) s = .next
      { s with decRsp := some (.fail .invalidArgument) }) ∧
    (s.dec.configured = true → ref = 0 → exec (.dInput ref length) s = .next
      { s with decRsp := some (.fail .invalidArgument) }) ∧
    (s.dec.configured = true → ref ≠ 0 → length ≠ 50 → exec (.dInput ref length) s = .next
      { s with dec := { s.dec with ref := 0, len := 0 }, decRsp := some (.fail .lengthMismatch) }) ∧
    (s.dec.configured = true → ref ≠ 0 → length = 50 → exec (.dInput ref length) s = .next
      { s with dec := { s.dec with ref := ref, len := 50 }, decRsp := some (.ok .empty) })

/-- R154: Match over the integers, in its three forms. -/
def Obligations.MatchIsTheStrictWindow : Prop :=
  ∀ (d : Duration) (t m : Tick),
    (tolerates d t m = true ↔ (t.toNat : Int) - m.toNat < d.toNat ∧ (d.toNat : Int) < t.toNat + m.toNat) ∧
    (tolerates d t m = true ↔ |(d.toNat : Int) - t.toNat| < m.toNat) ∧
    (tolerates d t m = true ↔ |(d.toNat : Int) - t.toNat| ≤ (m.toNat : Int) - 1)

/-- R155 and the first sentence of R185: the boundaries of Match. -/
def Obligations.MatchBoundaries : Prop :=
  ∀ (d : Duration) (t m : Tick),
    (m = 0 → tolerates d t m = false) ∧
    (m = 1 → (tolerates d t m = true ↔ d.toNat = t.toNat)) ∧
    (m ≠ 0 → (d.toNat : Int) = t.toNat + (m.toNat - 1) → tolerates d t m = true) ∧
    (m ≠ 0 → (d.toNat : Int) = t.toNat - (m.toNat - 1) → tolerates d t m = true) ∧
    ((t.toNat : Int) + m.toNat ≤ d.toNat → tolerates d t m = false) ∧
    ((d.toNat : Int) ≤ (t.toNat : Int) - m.toNat → tolerates d t m = false) ∧
    (t = 0 → (tolerates d t m = true ↔ d.toNat < m.toNat)) ∧
    (32767 + m.toNat ≤ t.toNat → tolerates d t m = false)

/-- R153, R157, R158: the head and end classifications. The end's second duration is compared with zero. -/
def Obligations.HeadAndEndClassification : Prop :=
  ∀ (p : TimingProfile) (w : Entry),
    (headOk p w = true ↔ w.getLsbD 15 = !p.inverted ∧ w.getLsbD 31 = p.inverted ∧
      tolerates (w.extractLsb' 0 15) p.ticks.leadHi p.margin = true ∧
      tolerates (w.extractLsb' 16 15) p.ticks.leadLo p.margin = true) ∧
    (endOk p w = true ↔ w.getLsbD 15 = !p.inverted ∧ w.getLsbD 31 = p.inverted ∧
      tolerates (w.extractLsb' 0 15) p.ticks.endHi p.margin = true ∧
      (w.extractLsb' 16 15).toNat < p.margin.toNat)

/-- R159, R160, R161: a data bit is the one template that matches; both or neither is a failure, and with Distinguishable
both never happens. -/
def Obligations.BitClassification : Prop :=
  ∀ (p : TimingProfile) (w : Entry),
    (isZero p w = true ↔ w.getLsbD 15 = !p.inverted ∧ w.getLsbD 31 = p.inverted ∧
      tolerates (w.extractLsb' 0 15) p.ticks.l0Hi p.margin = true ∧
      tolerates (w.extractLsb' 16 15) p.ticks.l0Lo p.margin = true) ∧
    (isOne p w = true ↔ w.getLsbD 15 = !p.inverted ∧ w.getLsbD 31 = p.inverted ∧
      tolerates (w.extractLsb' 0 15) p.ticks.l1Hi p.margin = true ∧
      tolerates (w.extractLsb' 16 15) p.ticks.l1Lo p.margin = true) ∧
    (bitOf p w = some false ↔ isZero p w = true ∧ isOne p w = false) ∧
    (bitOf p w = some true ↔ isOne p w = true ∧ isZero p w = false) ∧
    (bitOf p w = none ↔ isZero p w = isOne p w) ∧
    (Distinguishable p → ¬ (isZero p w = true ∧ isOne p w = true))

/-- R156: for a profile of one clock at which every template fits 15 bits, Distinguishable is a bound on the margin; the
bound is sufficient at any clock; at 1 MHz it is a margin of at most 565. -/
def Obligations.DistinguishableIsAMarginBound : Prop :=
  ∀ (clkHz : BitVec 32) (m : Tick) (inv ext : Bool),
    (clkHz.toNat ≤ 5957818 →
      (Distinguishable { ticks := ticksFor clkHz, margin := m, inverted := inv, ext := ext } ↔
        m = 0 ∨ 2 * (m.toNat : Int) - 1 ≤ (ticksFor clkHz).l1Lo.toNat - (ticksFor clkHz).l0Lo.toNat)) ∧
    (m = 0 ∨ 2 * (m.toNat : Int) - 1 ≤ (ticksFor clkHz).l1Lo.toNat - (ticksFor clkHz).l0Lo.toNat →
      Distinguishable { ticks := ticksFor clkHz, margin := m, inverted := inv, ext := ext }) ∧
    (clkHz = 1000000 →
      (Distinguishable { ticks := ticksFor clkHz, margin := m, inverted := inv, ext := ext } ↔ m.toNat ≤ 565))

/-- R162, R163, R164, R165, R166: D_DECODE succeeds exactly when head, end and all 48 data bits classify, with the bits
least significant first and no redundancy check; the last-decoded hint takes the value; a failure changes nothing. The
model's own counter rxDraws (log entry 4) is left open. -/
def Obligations.DecodeSucceedsExactlyWhenAllClassify : Prop :=
  decode 0xA000000000000000 = .ok .dDecode ∧
  ∀ s : State,
    (s.dec.configured = false ∨ s.dec.ref = 0 → exec .dDecode s = .next
      { s with decRsp := some (.fail .invalidArgument) }) ∧
    (s.dec.configured = true → s.dec.ref ≠ 0 →
      (headOk s.dec.profile (rxWord s s.dec.ref 0) = true ∧ endOk s.dec.profile (rxWord s s.dec.ref 49) = true ∧
        (∀ k < 48, bitOf s.dec.profile (rxWord s s.dec.ref (1 + k)) ≠ none) →
        ∃ (a : Address) (c : Command) (draws : Nat),
          (∀ k < 16, bitOf s.dec.profile (rxWord s s.dec.ref (1 + k)) = some (a.getLsbD k)) ∧
          (∀ k < 32, bitOf s.dec.profile (rxWord s s.dec.ref (17 + k)) = some (c.getLsbD k)) ∧
          exec .dDecode s = .next
            { s with
              dec := { s.dec with lastAddr := a, lastCmd := c }
              rxDraws := draws
              decRsp := some (.ok (.scan { address := a, command := c, isRepeat := false })) }) ∧
      (¬ (headOk s.dec.profile (rxWord s s.dec.ref 0) = true ∧ endOk s.dec.profile (rxWord s s.dec.ref 49) = true ∧
        (∀ k < 48, bitOf s.dec.profile (rxWord s s.dec.ref (1 + k)) ≠ none)) →
        ∃ draws, exec .dDecode s = .next { s with rxDraws := draws, decRsp := some (.fail .decodeFailure) }))

/-- R54: inside a sequence D_DECODE sees its entries; past its end the word is free, and whatever it is the command
completes with OK or DecodeFailure (U5). -/
def Obligations.DecodeOfAnySequenceCompletes : Prop :=
  ∀ s : State,
    (∀ i w, (rxEntries s.rxseq s.dec.ref)[i]? = some w → rxWord s s.dec.ref i = w) ∧
    (s.dec.configured = true → s.dec.ref ≠ 0 → ∃ t, exec .dDecode s = .next t ∧
      ((∃ code, t.decRsp = some (.ok (.scan code))) ∨ t.decRsp = some (.fail .decodeFailure)))

/-- R191: the response of D_DECODE is a function of the configured bit, the reference, seven tick registers, the margin, the
polarity and the 50 words read; and when it is OK(a, c, 0), every data entry matches the template of its bit of {c, a}
and not the other. -/
def Obligations.DecodeDependsOnlyOnWhatItReads : Prop :=
  (∀ s s' t t' : State,
    s.dec.configured = s'.dec.configured → s.dec.ref = s'.dec.ref →
    { s.dec.profile.ticks with endLo := 0 } = { s'.dec.profile.ticks with endLo := 0 } →
    s.dec.profile.margin = s'.dec.profile.margin → s.dec.profile.inverted = s'.dec.profile.inverted →
    (∀ i < 50, rxWord s s.dec.ref i = rxWord s' s'.dec.ref i) →
    exec .dDecode s = .next t → exec .dDecode s' = .next t' → t.decRsp = t'.decRsp) ∧
  (∀ (s t : State) (code : ScanCode), exec .dDecode s = .next t → t.decRsp = some (.ok (.scan code)) →
    ∀ i < 48, isOne s.dec.profile (rxWord s s.dec.ref (1 + i)) = (dataOf code.address code.command).getLsbD i ∧
      isZero s.dec.profile (rxWord s s.dec.ref (1 + i)) = !(dataOf code.address code.command).getLsbD i)

/-! ## Errors (spec/60_exceptions.md) -/

/-- R200, R201: the error kinds each command can answer, and no others. -/
def Obligations.ErrorsEachCommandCanRaise : Prop :=
  ∀ (s t : State) (i : Instr) (e : ErrorKind), exec i s = .next t → t.response i.block = some (.fail e) →
    e = .invalidArgument ∨
    (e = .protocolMismatch ∧ ∃ a c, i = .eBuild a c) ∨
    (e = .bufferOverflow ∧ (i = .eHead ∨ (∃ value, i = .eBit value) ∨ i = .eEnd ∨ ∃ a c, i = .eBuild a c)) ∨
    (e = .lengthMismatch ∧ ∃ ref length, i = .dInput ref length) ∨
    (e = .decodeFailure ∧ i = .dDecode)

/-- R82, R84: every command that is not refused answers exactly one response, on its own sub-block's port, with data only
of the kind its rule gives; no command faults. -/
def Obligations.EveryCommandAnswersOnce : Prop :=
  ∀ (s : State) (i : Instr),
    (∀ f, exec i s ≠ .fault f) ∧
    (∀ t, exec i s = .next t → ∃ r, t.response i.block = some r ∧
      (∀ b, b ≠ i.block → t.response b = s.response b) ∧
      (∀ d, r = .ok d → (i = .eResult ∧ ∃ n, d = .count n) ∨
        (i = .dDecode ∧ ∃ a c, d = .scan { address := a, command := c, isRepeat := false }) ∨
        (i ≠ .eResult ∧ i ≠ .dDecode ∧ d = .empty)))

/-- R212: the state after each failure, in one table. Only the response ports and the model's rxDraws may differ beside
what the table lists. -/
def Obligations.StateAfterEachFailure : Prop :=
  ∀ (s t : State) (i : Instr) (e : ErrorKind), s.Inv → exec i s = .next t → t.response i.block = some (.fail e) →
    (e = .invalidArgument → t.enc = s.enc ∧ t.dec = s.dec) ∧
    (e = .protocolMismatch → t.enc = { s.enc with cursor := 0 } ∧ t.dec = s.dec) ∧
    (e = .bufferOverflow → i = .eHead ∨ (∃ value, i = .eBit value) →
      t.enc = { s.enc with cursor := 0 } ∧ t.dec = s.dec) ∧
    (e = .bufferOverflow → i = .eEnd → t.dec = s.dec ∧
      ((s.enc.cursor = s.enc.capacity ∧ t.enc = { s.enc with cursor := 0 }) ∨
        (s.enc.cursor.toNat + 1 = s.enc.capacity.toNat ∧
          t.enc = { s.enc with
            txbuf := cellWrite s.enc.txbuf (s.enc.capacity.toNat - 1) (endWord s.enc.profile), cursor := 0 }))) ∧
    (∀ a c, e = .bufferOverflow → i = .eBuild a c → t.dec = s.dec ∧
      t.enc = { s.enc with txbuf := t.enc.txbuf, cursor := 0 } ∧
      (∀ j < s.enc.capacity.toNat, cellRead t.enc.txbuf j = some (frameEntryAt s.enc.profile a c j)) ∧
      (∀ j, s.enc.capacity.toNat ≤ j → cellRead t.enc.txbuf j = cellRead s.enc.txbuf j)) ∧
    (e = .lengthMismatch → t.enc = s.enc ∧ t.dec = { s.dec with ref := 0, len := 0 }) ∧
    (e = .decodeFailure → t.enc = s.enc ∧ t.dec = s.dec) ∧
    t.rxseq = s.rxseq

/-- R210: the pairs of failures that can meet in one command, in their order. -/
def Obligations.FailurePriority : Prop :=
  (∀ (s : State) (a : Address) (c : Command), s.enc.configured = true → s.enc.profile.ext = false →
    redundant a c = false → s.enc.capacity.toNat < 51 →
    ∃ t, exec (.eBuild a c) s = .next t ∧ t.encRsp = some (.fail .protocolMismatch)) ∧
  (∀ (s : State) (length : Count), s.dec.configured = true → length ≠ 50 →
    ∃ t, exec (.dInput 0 length) s = .next t ∧ t.decRsp = some (.fail .invalidArgument)) ∧
  (∀ (s : State) (ext inv : Bool),
    ∃ t, exec (.eCfg 0 0 ext inv) s = .next t ∧ t.encRsp = some (.fail .invalidArgument))

/-! ## Laws (spec/44_laws.md) and whole-machine rules -/

/-- R69: a command to ENC and a command to DEC commute, to the same state, and neither changes whether the other is
refused. -/
def Obligations.EncoderAndDecoderCommandsCommute : Prop :=
  ∀ (s : State) (i j : Instr), i.block = .enc → j.block = .dec →
    (∀ u v, exec i s = .next u → exec j s = .next v → ∃ t, exec j u = .next t ∧ exec i v = .next t) ∧
    (∀ r v, exec i s = .refused r → exec j s = .next v → exec i v = .refused r)

/-- R189: the 51 commands of a frame built by hand all answer OK and leave the frame and the cursor at 51 for every scan
code, whatever `ext` is; where E_BUILD passes its validation they leave exactly the state it leaves. -/
def Obligations.HandBuiltFrameEqualsBuild : Prop :=
  ∀ (s : State) (a : Address) (c : Command),
    s.enc.configured = true → representable s.enc.profile.ticks = true → 51 ≤ s.enc.capacity.toNat →
    (handBuilt a c).length = 51 ∧
    (∀ n, 0 < n → n ≤ 51 → ∃ u, execAll ((handBuilt a c).take n) s = .next u ∧ u.encRsp = some (.ok .empty)) ∧
    ∃ t, execAll (handBuilt a c) s = .next t ∧ t.enc.cursor = 51 ∧
      (∀ i < 51, cellRead t.enc.txbuf i = some (frameEntryAt s.enc.profile a c i)) ∧
      (s.enc.profile.ext = true ∨ redundant a c = true → exec (.eBuild a c) s = .next t)

/-- R182, R183: the round trip through the ideal channel, for every redundant scan code, and for every scan code with the
builder's `ext` = 1. -/
def Obligations.RoundTripThroughLoopback : Prop :=
  ∀ (s : State) (clkHz : BitVec 32) (a : Address) (c : Command) (h : Handle),
    s.enc.configured = true → s.dec.configured = true → clkHz.toNat ≤ 5957818 →
    s.enc.profile.ticks = ticksFor clkHz → s.dec.profile.ticks = ticksFor clkHz →
    s.enc.profile.inverted = s.dec.profile.inverted → 51 ≤ s.enc.capacity.toNat → s.dec.profile.margin ≠ 0 →
    Distinguishable s.dec.profile → (s.enc.profile.ext = true ∨ redundant a c = true) → h ≠ 0 →
    ∃ (s1 s2 s3 s4 s5 : State) (built : List Entry),
      exec (.eBuild a c) s = .next s1 ∧ s1.encRsp = some (.ok .empty) ∧
      exec .eResult s1 = .next s2 ∧ s2.encRsp = some (.ok (.count 51)) ∧
      populated s2.enc = built.map some ∧
      runRxPlace h (loopback built) s2 = .next s3 ∧
      exec (.dInput h 50) s3 = .next s4 ∧ s4.decRsp = some (.ok .empty) ∧
      exec .dDecode s4 = .next s5 ∧
      s5.decRsp = some (.ok (.scan { address := a, command := c, isRepeat := false }))

/-- R190: the decoder tolerates jitter: any 50 words with the levels of the loopback of a built frame and every duration
within margin - 1 of it decode to the same scan code. -/
def Obligations.JitterWithinTheMarginDecodes : Prop :=
  ∀ (s : State) (clkHz : BitVec 32) (a : Address) (c : Command) (p : TimingProfile) (r : List Entry),
    s.dec.configured = true → s.dec.ref ≠ 0 → clkHz.toNat ≤ 5957818 →
    p.ticks = ticksFor clkHz → s.dec.profile.ticks = ticksFor clkHz → p.inverted = s.dec.profile.inverted →
    s.dec.profile.margin ≠ 0 → Distinguishable s.dec.profile →
    r.length = 50 → rxEntries s.rxseq s.dec.ref = r →
    (∀ i < 50, ∀ w v, (loopback (frameWords p a c))[i]? = some w → r[i]? = some v →
      level1 v = level1 w ∧ level2 v = level2 w ∧
      |((dur1 v).toNat : Int) - (dur1 w).toNat| ≤ (s.dec.profile.margin.toNat : Int) - 1 ∧
      |((dur2 v).toNat : Int) - (dur2 w).toNat| ≤ (s.dec.profile.margin.toNat : Int) - 1) →
    ∃ draws, exec .dDecode s = .next
      { s with
        dec := { s.dec with lastAddr := a, lastCmd := c }
        rxDraws := draws
        decRsp := some (.ok (.scan { address := a, command := c, isRepeat := false })) }

/-- R186: the loopback of a frame built with the other polarity fails the decode. -/
def Obligations.OtherPolarityFailsTheDecode : Prop :=
  ∀ (s : State) (a : Address) (c : Command) (p : TimingProfile),
    s.dec.configured = true → s.dec.ref ≠ 0 → p.inverted ≠ s.dec.profile.inverted →
    rxEntries s.rxseq s.dec.ref = loopback (frameWords p a c) →
    ∃ draws, exec .dDecode s = .next { s with rxDraws := draws, decRsp := some (.fail .decodeFailure) }

/-- R188: without the adapter the round trip fails: the built frame less its terminator is accepted by D_INPUT and fails
the decode, and with all 51 entries D_INPUT answers LengthMismatch. -/
def Obligations.RoundTripFailsWithoutLoopback : Prop :=
  ∀ (s : State) (clkHz : BitVec 32) (a : Address) (c : Command) (h : Handle) (p : TimingProfile),
    s.dec.configured = true → clkHz.toNat ≤ 5957818 → p.ticks = ticksFor clkHz → s.dec.profile.ticks = ticksFor clkHz →
    p.inverted = s.dec.profile.inverted → s.dec.profile.margin ≠ 0 → Distinguishable s.dec.profile → h ≠ 0 →
    (rxEntries s.rxseq h = (frameWords p a c).take 50 →
      ∃ t, exec (.dInput h 50) s = .next t ∧ t.decRsp = some (.ok .empty) ∧
        ∃ draws, exec .dDecode t = .next { t with rxDraws := draws, decRsp := some (.fail .decodeFailure) }) ∧
    (∃ t, exec (.dInput h 51) s = .next t ∧ t.decRsp = some (.fail .lengthMismatch))

/-- R192: how long a built frame lasts, that every redundant frame has 24 ones, and the lengths at 1 MHz. -/
def Obligations.FrameDuration : Prop :=
  (∀ (p : TimingProfile) (a : Address) (c : Command), representable p.ticks = true →
    sequenceTicks ((frameWords p a c).take 50) =
      p.ticks.leadHi.toNat + p.ticks.leadLo.toNat +
      (48 - (onesBelow a 16 + onesBelow c 32)) * (p.ticks.l0Hi.toNat + p.ticks.l0Lo.toNat) +
      (onesBelow a 16 + onesBelow c 32) * (p.ticks.l1Hi.toNat + p.ticks.l1Lo.toNat) +
      p.ticks.endHi.toNat + p.ticks.endLo.toNat) ∧
  (∀ (a : Address) (c : Command), redundant a c = true → onesBelow a 16 + onesBelow c 32 = 24) ∧
  (∀ p : TimingProfile, p.ticks = ticksFor 1000000 →
    (∀ (a : Address) (c : Command), redundant a c = true → sequenceTicks ((frameWords p a c).take 50) = 95720) ∧
    sequenceTicks ((frameWords p 0 0).take 50) = 68600 ∧
    sequenceTicks ((frameWords p 0xFFFF 0xFFFFFFFF).take 50) = 122840)

/-- R245: the machine's steps run the host's issued actions in their order, one each, and a run ends when the list is
exhausted. -/
def Obligations.StepsRunTheIssuedActionsInOrder : Prop :=
  ∀ (as : List HostAction) (s t : State), s.pending = [] → actAll as s = .next t →
    Sys2Proof.core.run as.length { s with pending := as } = .next t ∧
    step t = .next t

/-- The invariant (R26, R31, R33, R36, R38, R42, and the canonical form of both memories) is kept by every step from every
state that meets it. -/
def Obligations.StepKeepsTheInvariant : Prop :=
  ∀ s t : State, s.Inv → step s = .next t → t.Inv

/-- What is observable of a run is the responses and the entries below the cursor at each E_RESULT, and nothing else (R245):
a host read of TXBUF that answers, done first or between other actions, leaves the observable outcome as it is. That reads
are actions of the model is its own choice (log entry 6). -/
def Obligations.ReadsOfTxbufAreNotObserved : Prop :=
  ∀ (before after : List HostAction) (s t u : State) (i : Nat),
    actAll before s = .next t → runAction (.txRead i) t = .next u →
    observe (before ++ .txRead i :: after) s = observe (before ++ after) s

/-- R185's second sentence, as R154 and R159 give it (DESIGN CHOICE, log entry 18). Take a sequence that decodes and move
one duration of one entry. To target plus or minus the margin: the decode fails, but for a data bit whose moved entry
matches the other bit's template, which reads as the other bit. No bit does so where at least one tick lies between the
two windows. To target plus or minus (margin - 1), with Distinguishable: the result is unchanged. -/
def Obligations.MovedDurationAtTheWindowsEdge : Prop :=
  ∀ (s u : State) (code : ScanCode) (i : Nat) (w v : Entry),
    exec .dDecode s = .next u → u.decRsp = some (.ok (.scan code)) → i < 50 →
    (rxEntries s.rxseq s.dec.ref)[i]? = some w →
    (MovedFromTarget s.dec.profile.margin.toNat
        (targetsAt s.dec.profile (dataOf code.address code.command) i) w v →
      (matchesOtherBit s.dec.profile (dataOf code.address code.command) i v = false → ∃ t,
        exec .dDecode (withStoredEntry s i v) = .next t ∧ t.decRsp = some (.fail .decodeFailure)) ∧
      (i = 0 ∨ i = 49 ∨ s.dec.profile.ticks.l0Hi = s.dec.profile.ticks.l1Hi ∧
          2 * s.dec.profile.margin.toNat + s.dec.profile.ticks.l0Lo.toNat ≤ s.dec.profile.ticks.l1Lo.toNat →
        matchesOtherBit s.dec.profile (dataOf code.address code.command) i v = false) ∧
      (matchesOtherBit s.dec.profile (dataOf code.address code.command) i v = true → ∃ t code',
        exec .dDecode (withStoredEntry s i v) = .next t ∧ t.decRsp = some (.ok (.scan code')) ∧
        ∀ k < 48, (dataOf code'.address code'.command).getLsbD k =
          ((dataOf code.address code.command).getLsbD k ^^ decide (k + 1 = i)))) ∧
    (MovedFromTarget (s.dec.profile.margin.toNat - 1)
        (targetsAt s.dec.profile (dataOf code.address code.command) i) w v →
      Distinguishable s.dec.profile → ∃ t,
        exec .dDecode (withStoredEntry s i v) = .next t ∧ t.decRsp = some (.ok (.scan code)))
end

