-- ==== Sys2Proof/Laws/State.lean ====
section
/-! SUPPORT. One lemma per field per update of State, Enc and Dec, true by rfl: no later proof unfolds a record update. -/

namespace Sys2Proof.Machine

@[simp] theorem State.withEnc_enc (s : State) (e : Enc) : (s.withEnc e).enc = e := rfl
@[simp] theorem State.withEnc_dec (s : State) (e : Enc) : (s.withEnc e).dec = s.dec := rfl
@[simp] theorem State.withEnc_rxseq (s : State) (e : Enc) : (s.withEnc e).rxseq = s.rxseq := rfl
@[simp] theorem State.withEnc_rxDraws (s : State) (e : Enc) : (s.withEnc e).rxDraws = s.rxDraws := rfl
@[simp] theorem State.withEnc_encRsp (s : State) (e : Enc) : (s.withEnc e).encRsp = s.encRsp := rfl
@[simp] theorem State.withEnc_decRsp (s : State) (e : Enc) : (s.withEnc e).decRsp = s.decRsp := rfl
@[simp] theorem State.withEnc_txOut (s : State) (e : Enc) : (s.withEnc e).txOut = s.txOut := rfl
@[simp] theorem State.withEnc_pending (s : State) (e : Enc) : (s.withEnc e).pending = s.pending := rfl

@[simp] theorem State.withDec_enc (s : State) (d : Dec) : (s.withDec d).enc = s.enc := rfl
@[simp] theorem State.withDec_dec (s : State) (d : Dec) : (s.withDec d).dec = d := rfl
@[simp] theorem State.withDec_rxseq (s : State) (d : Dec) : (s.withDec d).rxseq = s.rxseq := rfl
@[simp] theorem State.withDec_rxDraws (s : State) (d : Dec) : (s.withDec d).rxDraws = s.rxDraws := rfl
@[simp] theorem State.withDec_encRsp (s : State) (d : Dec) : (s.withDec d).encRsp = s.encRsp := rfl
@[simp] theorem State.withDec_decRsp (s : State) (d : Dec) : (s.withDec d).decRsp = s.decRsp := rfl
@[simp] theorem State.withDec_txOut (s : State) (d : Dec) : (s.withDec d).txOut = s.txOut := rfl
@[simp] theorem State.withDec_pending (s : State) (d : Dec) : (s.withDec d).pending = s.pending := rfl

@[simp] theorem State.withRxseq_enc (s : State) (m : Cells (List Entry)) : (s.withRxseq m).enc = s.enc := rfl
@[simp] theorem State.withRxseq_dec (s : State) (m : Cells (List Entry)) : (s.withRxseq m).dec = s.dec := rfl
@[simp] theorem State.withRxseq_rxseq (s : State) (m : Cells (List Entry)) : (s.withRxseq m).rxseq = m := rfl
@[simp] theorem State.withRxseq_rxDraws (s : State) (m : Cells (List Entry)) : (s.withRxseq m).rxDraws = s.rxDraws := rfl
@[simp] theorem State.withRxseq_encRsp (s : State) (m : Cells (List Entry)) : (s.withRxseq m).encRsp = s.encRsp := rfl
@[simp] theorem State.withRxseq_decRsp (s : State) (m : Cells (List Entry)) : (s.withRxseq m).decRsp = s.decRsp := rfl
@[simp] theorem State.withRxseq_txOut (s : State) (m : Cells (List Entry)) : (s.withRxseq m).txOut = s.txOut := rfl
@[simp] theorem State.withRxseq_pending (s : State) (m : Cells (List Entry)) : (s.withRxseq m).pending = s.pending := rfl

@[simp] theorem State.nextDraw_enc (s : State) : (s.nextDraw).enc = s.enc := rfl
@[simp] theorem State.nextDraw_dec (s : State) : (s.nextDraw).dec = s.dec := rfl
@[simp] theorem State.nextDraw_rxseq (s : State) : (s.nextDraw).rxseq = s.rxseq := rfl
@[simp] theorem State.nextDraw_rxDraws (s : State) : (s.nextDraw).rxDraws = s.rxDraws + 1 := rfl
@[simp] theorem State.nextDraw_encRsp (s : State) : (s.nextDraw).encRsp = s.encRsp := rfl
@[simp] theorem State.nextDraw_decRsp (s : State) : (s.nextDraw).decRsp = s.decRsp := rfl
@[simp] theorem State.nextDraw_txOut (s : State) : (s.nextDraw).txOut = s.txOut := rfl
@[simp] theorem State.nextDraw_pending (s : State) : (s.nextDraw).pending = s.pending := rfl

@[simp] theorem State.withTxOut_enc (s : State) (w : Entry) : (s.withTxOut w).enc = s.enc := rfl
@[simp] theorem State.withTxOut_dec (s : State) (w : Entry) : (s.withTxOut w).dec = s.dec := rfl
@[simp] theorem State.withTxOut_rxseq (s : State) (w : Entry) : (s.withTxOut w).rxseq = s.rxseq := rfl
@[simp] theorem State.withTxOut_rxDraws (s : State) (w : Entry) : (s.withTxOut w).rxDraws = s.rxDraws := rfl
@[simp] theorem State.withTxOut_encRsp (s : State) (w : Entry) : (s.withTxOut w).encRsp = s.encRsp := rfl
@[simp] theorem State.withTxOut_decRsp (s : State) (w : Entry) : (s.withTxOut w).decRsp = s.decRsp := rfl
@[simp] theorem State.withTxOut_txOut (s : State) (w : Entry) : (s.withTxOut w).txOut = some w := rfl
@[simp] theorem State.withTxOut_pending (s : State) (w : Entry) : (s.withTxOut w).pending = s.pending := rfl

@[simp] theorem State.withPending_enc (s : State) (as : List HostAction) : (s.withPending as).enc = s.enc := rfl
@[simp] theorem State.withPending_dec (s : State) (as : List HostAction) : (s.withPending as).dec = s.dec := rfl
@[simp] theorem State.withPending_rxseq (s : State) (as : List HostAction) : (s.withPending as).rxseq = s.rxseq := rfl
@[simp] theorem State.withPending_rxDraws (s : State) (as : List HostAction) : (s.withPending as).rxDraws = s.rxDraws := rfl
@[simp] theorem State.withPending_encRsp (s : State) (as : List HostAction) : (s.withPending as).encRsp = s.encRsp := rfl
@[simp] theorem State.withPending_decRsp (s : State) (as : List HostAction) : (s.withPending as).decRsp = s.decRsp := rfl
@[simp] theorem State.withPending_txOut (s : State) (as : List HostAction) : (s.withPending as).txOut = s.txOut := rfl
@[simp] theorem State.withPending_pending (s : State) (as : List HostAction) : (s.withPending as).pending = as := rfl

@[simp] theorem State.respond_enc_enc (s : State) (r : Response) : (s.respond .enc r).enc = s.enc := rfl
@[simp] theorem State.respond_enc_dec (s : State) (r : Response) : (s.respond .enc r).dec = s.dec := rfl
@[simp] theorem State.respond_enc_rxseq (s : State) (r : Response) : (s.respond .enc r).rxseq = s.rxseq := rfl
@[simp] theorem State.respond_enc_rxDraws (s : State) (r : Response) : (s.respond .enc r).rxDraws = s.rxDraws := rfl
@[simp] theorem State.respond_enc_encRsp (s : State) (r : Response) : (s.respond .enc r).encRsp = some r := rfl
@[simp] theorem State.respond_enc_decRsp (s : State) (r : Response) : (s.respond .enc r).decRsp = s.decRsp := rfl
@[simp] theorem State.respond_enc_txOut (s : State) (r : Response) : (s.respond .enc r).txOut = s.txOut := rfl
@[simp] theorem State.respond_enc_pending (s : State) (r : Response) : (s.respond .enc r).pending = s.pending := rfl

@[simp] theorem State.respond_dec_enc (s : State) (r : Response) : (s.respond .dec r).enc = s.enc := rfl
@[simp] theorem State.respond_dec_dec (s : State) (r : Response) : (s.respond .dec r).dec = s.dec := rfl
@[simp] theorem State.respond_dec_rxseq (s : State) (r : Response) : (s.respond .dec r).rxseq = s.rxseq := rfl
@[simp] theorem State.respond_dec_rxDraws (s : State) (r : Response) : (s.respond .dec r).rxDraws = s.rxDraws := rfl
@[simp] theorem State.respond_dec_encRsp (s : State) (r : Response) : (s.respond .dec r).encRsp = s.encRsp := rfl
@[simp] theorem State.respond_dec_decRsp (s : State) (r : Response) : (s.respond .dec r).decRsp = some r := rfl
@[simp] theorem State.respond_dec_txOut (s : State) (r : Response) : (s.respond .dec r).txOut = s.txOut := rfl
@[simp] theorem State.respond_dec_pending (s : State) (r : Response) : (s.respond .dec r).pending = s.pending := rfl

@[simp] theorem Enc.withCursor_configured (e : Enc) (c : Count) : (e.withCursor c).configured = e.configured := rfl
@[simp] theorem Enc.withCursor_profile (e : Enc) (c : Count) : (e.withCursor c).profile = e.profile := rfl
@[simp] theorem Enc.withCursor_capacity (e : Enc) (c : Count) : (e.withCursor c).capacity = e.capacity := rfl
@[simp] theorem Enc.withCursor_cursor (e : Enc) (c : Count) : (e.withCursor c).cursor = c := rfl
@[simp] theorem Enc.withCursor_txbuf (e : Enc) (c : Count) : (e.withCursor c).txbuf = e.txbuf := rfl

@[simp] theorem Dec.withInput_configured (d : Dec) (r : Handle) (n : Count) : (d.withInput r n).configured = d.configured := rfl
@[simp] theorem Dec.withInput_profile (d : Dec) (r : Handle) (n : Count) : (d.withInput r n).profile = d.profile := rfl
@[simp] theorem Dec.withInput_ref (d : Dec) (r : Handle) (n : Count) : (d.withInput r n).ref = r := rfl
@[simp] theorem Dec.withInput_len (d : Dec) (r : Handle) (n : Count) : (d.withInput r n).len = n := rfl
@[simp] theorem Dec.withInput_lastAddr (d : Dec) (r : Handle) (n : Count) : (d.withInput r n).lastAddr = d.lastAddr := rfl
@[simp] theorem Dec.withInput_lastCmd (d : Dec) (r : Handle) (n : Count) : (d.withInput r n).lastCmd = d.lastCmd := rfl

@[simp] theorem Dec.withLast_configured (d : Dec) (a : Address) (c : Command) : (d.withLast a c).configured = d.configured := rfl
@[simp] theorem Dec.withLast_profile (d : Dec) (a : Address) (c : Command) : (d.withLast a c).profile = d.profile := rfl
@[simp] theorem Dec.withLast_ref (d : Dec) (a : Address) (c : Command) : (d.withLast a c).ref = d.ref := rfl
@[simp] theorem Dec.withLast_len (d : Dec) (a : Address) (c : Command) : (d.withLast a c).len = d.len := rfl
@[simp] theorem Dec.withLast_lastAddr (d : Dec) (a : Address) (c : Command) : (d.withLast a c).lastAddr = a := rfl
@[simp] theorem Dec.withLast_lastCmd (d : Dec) (a : Address) (c : Command) : (d.withLast a c).lastCmd = c := rfl

@[simp] theorem State.response_enc (s : State) : s.response .enc = s.encRsp := rfl
@[simp] theorem State.response_dec (s : State) : s.response .dec = s.decRsp := rfl
@[simp] theorem State.configured_enc (s : State) : s.configured .enc = s.enc.configured := rfl
@[simp] theorem State.configured_dec (s : State) : s.configured .dec = s.dec.configured := rfl

/-- A command's answer is on its own sub-block's port, and the other port keeps its response. -/
theorem State.response_respond (s : State) (b c : SubBlock) (r : Response) :
    (s.respond b r).response c = if c = b then some r else s.response c := by
  cases b <;> cases c <;> rfl

/-- Delivering an error always answers a next state, with the error on the port (R211). -/
theorem raiseError_eq (b : SubBlock) (e : ErrorKind) (s : State) :
    raiseError b e s = .next (s.respond b (.fail e)) := rfl

/-- Returning OK always answers a next state, with the data on the port. -/
theorem returnOk_eq (b : SubBlock) (d : ResponseData) (s : State) :
    returnOk b d s = .next (s.respond b (.ok d)) := rfl

end Sys2Proof.Machine
end

