-- ==== Sys2Proof/Laws/Memory.lean ====
section
/-! SUPPORT. The laws of entry-addressed memory: a read after a write, and that every operation keeps the canonical
form. -/

namespace Sys2Proof.Machine

variable {α : Type}

theorem cellRead_write (m : Cells α) (i j : Nat) (v : α) :
    cellRead (cellWrite m i v) j = if j = i then some v else cellRead m j := by
  induction m with
  | nil => rfl
  | cons c m ih =>
    obtain ⟨k, u⟩ := c
    unfold cellWrite
    split
    · rename_i h
      simp only [cellRead]
    · split
      · rename_i _ h; subst h
        simp only [cellRead]
        split <;> rfl
      · rename_i h1 h2
        simp only [cellRead, ih]
        by_cases hj : j = k
        · subst hj; simp [Ne.symm h2]
        · simp [hj]

/-- A read after a write to the same index gives the value written (R52). -/
@[simp] theorem cellRead_write_same (m : Cells α) (i : Nat) (v : α) : cellRead (cellWrite m i v) i = some v := by
  simp [cellRead_write]

/-- A write leaves every other index alone. -/
theorem cellRead_write_ne (m : Cells α) {i j : Nat} (v : α) (h : j ≠ i) :
    cellRead (cellWrite m i v) j = cellRead m j := by
  simp [cellRead_write, h]

theorem cellsAbove_mono {m : Cells α} {a b : Nat} (hab : a ≤ b) (h : cellsAbove b m = true) :
    cellsAbove a m = true := by
  cases m with
  | nil => rfl
  | cons c m =>
    simp only [cellsAbove, Bool.and_eq_true, decide_eq_true_eq] at h ⊢
    exact ⟨by omega, h.2⟩

theorem cellsAbove_write {m : Cells α} {n i : Nat} {v : α} (hn : n < i) (h : cellsAbove n m = true) :
    cellsAbove n (cellWrite m i v) = true := by
  induction m generalizing n with
  | nil => simp [cellWrite, cellsAbove, hn]
  | cons c m ih =>
    obtain ⟨k, u⟩ := c
    simp only [cellsAbove, Bool.and_eq_true, decide_eq_true_eq] at h
    unfold cellWrite
    split
    · simp only [cellsAbove, Bool.and_eq_true, decide_eq_true_eq]; exact ⟨hn, by assumption, h.2⟩
    · split
      · rename_i _ hik; subst hik
        simp only [cellsAbove, Bool.and_eq_true, decide_eq_true_eq]; exact h
      · simp only [cellsAbove, Bool.and_eq_true, decide_eq_true_eq]
        exact ⟨h.1, ih (by omega) h.2⟩

theorem cellsAbove_erase {m : Cells α} {n i : Nat} (h : cellsAbove n m = true) :
    cellsAbove n (cellErase m i) = true := by
  induction m generalizing n with
  | nil => rfl
  | cons c m ih =>
    obtain ⟨k, u⟩ := c
    simp only [cellsAbove, Bool.and_eq_true, decide_eq_true_eq] at h
    unfold cellErase
    split
    · exact cellsAbove_mono (Nat.le_of_lt h.1) h.2
    · simp only [cellsAbove, Bool.and_eq_true, decide_eq_true_eq]; exact ⟨h.1, ih h.2⟩

theorem cellsWf_of_above {m : Cells α} {n : Nat} (h : cellsAbove n m = true) : cellsWf m = true := by
  cases m with
  | nil => rfl
  | cons c m =>
    simp only [cellsAbove, Bool.and_eq_true] at h
    exact h.2

/-- A write keeps the canonical form. -/
theorem cellsWf_write {m : Cells α} {i : Nat} {v : α} (h : cellsWf m = true) : cellsWf (cellWrite m i v) = true := by
  cases m with
  | nil => rfl
  | cons c m =>
    obtain ⟨k, u⟩ := c
    unfold cellWrite
    split
    · simp only [cellsWf, cellsAbove, Bool.and_eq_true, decide_eq_true_eq]; exact ⟨by assumption, h⟩
    · split
      · rename_i _ hik; subst hik; exact h
      · exact cellsAbove_write (by omega) h

/-- Erasing keeps the canonical form. -/
theorem cellsWf_erase {m : Cells α} {i : Nat} (h : cellsWf m = true) : cellsWf (cellErase m i) = true := by
  cases m with
  | nil => rfl
  | cons c m =>
    obtain ⟨k, u⟩ := c
    unfold cellErase
    split
    · exact cellsWf_of_above h
    · exact cellsAbove_erase (m := m) (n := k) h

theorem cellRead_of_above {m : Cells α} {n i : Nat} (h : cellsAbove n m = true) (hi : i ≤ n) : cellRead m i = none := by
  induction m generalizing n with
  | nil => rfl
  | cons c m ih =>
    obtain ⟨k, u⟩ := c
    simp only [cellsAbove, Bool.and_eq_true, decide_eq_true_eq] at h
    simp only [cellRead, if_neg (show i ≠ k by omega)]
    exact ih h.2 (by omega)

/-- In canonical form, erasing an index makes it hold no value and leaves every other index alone. -/
theorem cellRead_erase {m : Cells α} (h : cellsWf m = true) (i j : Nat) :
    cellRead (cellErase m i) j = if j = i then none else cellRead m j := by
  induction m with
  | nil => simp [cellErase, cellRead]
  | cons c m ih =>
    obtain ⟨k, u⟩ := c
    have hm : cellsAbove k m = true := h
    unfold cellErase
    split
    · rename_i hik; subst hik
      simp only [cellRead]
      by_cases hj : j = i
      · subst hj; simp [cellRead_of_above hm (Nat.le_refl _)]
      · simp [hj]
    · rename_i hik
      simp only [cellRead, ih (cellsWf_of_above hm)]
      by_cases hj : j = k
      · subst hj; simp [Ne.symm hik]
      · simp [hj]

theorem mem_cellWrite {m : Cells α} {i : Nat} {v : α} {c : Nat × α} (h : c ∈ cellWrite m i v) :
    c = (i, v) ∨ c ∈ m := by
  induction m with
  | nil => simpa [cellWrite] using h
  | cons d m ih =>
    obtain ⟨k, u⟩ := d
    unfold cellWrite at h
    split at h
    · simpa using h
    · split at h
      · rcases List.mem_cons.1 h with h | h
        · exact .inl h
        · exact .inr (List.mem_cons_of_mem _ h)
      · rcases List.mem_cons.1 h with h | h
        · exact .inr (h ▸ List.mem_cons_self)
        · exact (ih h).imp id (List.mem_cons_of_mem _)

theorem mem_cellErase {m : Cells α} {i : Nat} {c : Nat × α} (h : c ∈ cellErase m i) : c ∈ m := by
  induction m with
  | nil => simp [cellErase] at h
  | cons d m ih =>
    obtain ⟨k, u⟩ := d
    unfold cellErase at h
    split at h
    · exact List.mem_cons_of_mem _ h
    · rcases List.mem_cons.1 h with h | h
      · exact h ▸ List.mem_cons_self
      · exact List.mem_cons_of_mem _ (ih h)

/-- Placing a sequence of at least one entry under a handle that is not null keeps RXSEQ's canonical form. -/
theorem rxWf_write {m : Cells (List Entry)} {i : Nat} {ws : List Entry} (h : rxWf m = true) (hi : 0 < i)
    (hw : ws.isEmpty = false) : rxWf (cellWrite m i ws) = true := by
  simp only [rxWf, Bool.and_eq_true, List.all_eq_true] at h ⊢
  refine ⟨cellsWf_write h.1, fun c hc => ?_⟩
  rcases mem_cellWrite hc with rfl | hc
  · simp [hi, hw]
  · exact h.2 c hc

/-- Freeing a sequence keeps RXSEQ's canonical form. -/
theorem rxWf_erase {m : Cells (List Entry)} {i : Nat} (h : rxWf m = true) : rxWf (cellErase m i) = true := by
  simp only [rxWf, Bool.and_eq_true, List.all_eq_true] at h ⊢
  exact ⟨cellsWf_erase h.1, fun c hc => h.2 c (mem_cellErase hc)⟩

/-- Memory at reset is in canonical form. -/
theorem reset_memory_wf : cellsWf State.reset.enc.txbuf = true ∧ rxWf State.reset.rxseq = true := ⟨rfl, rfl⟩

end Sys2Proof.Machine
end

