-- ==== Sys2Proof/Laws/Ops.lean ====
section
/-! SUPPORT. What each shared operation can do, said once: the entry word's fields, Append and runs of appends, the tail of
the emitting commands, reading RXSEQ. -/

namespace Sys2Proof.Machine

/-! ## The entry word (R70, R73) -/

@[simp] theorem level1_entryOf (l1 l2 : Bool) (d1 d2 : Duration) : level1 (entryOf l1 d1 l2 d2) = l1 := by
  cases l1 <;> simp [level1, entryOf]

@[simp] theorem level2_entryOf (l1 l2 : Bool) (d1 d2 : Duration) : level2 (entryOf l1 d1 l2 d2) = l2 := by
  cases l2 <;> simp [level2, entryOf]

@[simp] theorem dur1_entryOf (l1 l2 : Bool) (d1 d2 : Duration) : dur1 (entryOf l1 d1 l2 d2) = d1 := by
  apply BitVec.eq_of_getLsbD_eq
  intro i hi
  have h1 : i < 16 := by omega
  have h2 : i < 31 := by omega
  have h3 : i < 32 := by omega
  simp [dur1, entryOf, hi, h1, h2, h3]

@[simp] theorem dur2_entryOf (l1 l2 : Bool) (d1 d2 : Duration) : dur2 (entryOf l1 d1 l2 d2) = d2 := by
  apply BitVec.eq_of_getLsbD_eq
  intro i hi
  have h1 : 16 + i < 31 := by omega
  have h2 : 16 + i < 32 := by omega
  have h3 : ¬ 16 + i < 15 := by omega
  have h4 : ¬ 16 + i - 15 = 0 := by omega
  have h5 : BitVec.getLsbD d1 (16 + i) = false := BitVec.getLsbD_of_ge _ _ (by omega)
  simp [dur2, entryOf, hi, h1, h2, h3, h4, h5]

/-- A tick register that fits 15 bits keeps its value as a duration (R74). -/
theorem durationOf_toNat {t : Tick} (h : t.toNat ≤ Config.durMax) : (durationOf t).toNat = t.toNat := by
  simp only [durationOf, BitVec.toNat_setWidth, Config.durMax] at *
  omega

/-- Representable says what R103 says: every one of the eight tick registers is at most 32767. -/
theorem representable_iff (t : Ticks) : representable t = true ↔ ∀ k, (tick t k).toNat ≤ Config.durMax := by
  constructor
  · intro h k
    simp only [representable, Bool.and_eq_true, decide_eq_true_eq] at h
    obtain ⟨⟨⟨⟨⟨⟨⟨h1, h2⟩, h3⟩, h4⟩, h5⟩, h6⟩, h7⟩, h8⟩ := h
    cases k <;> assumption
  · intro h
    simp only [representable, Bool.and_eq_true, decide_eq_true_eq]
    exact ⟨⟨⟨⟨⟨⟨⟨h .leadHi, h .leadLo⟩, h .l0Hi⟩, h .l0Lo⟩, h .l1Hi⟩, h .l1Lo⟩, h .endHi⟩, h .endLo⟩

/-- Match over the integers (R154). -/
theorem tolerates_iff (d : Duration) (t m : Tick) :
    tolerates d t m = true ↔ (t.toNat : Int) - m.toNat < d.toNat ∧ (d.toNat : Int) < t.toNat + m.toNat := by
  simp [tolerates]

/-! ## The conversion to ticks (R101, R102) -/

/-- No tick value is truncated: a 16-bit number of microseconds at any clock fits a tick register (R102 d, e). -/
theorem ticksOf_toNat {us : Nat} (clkHz : BitVec 32) (h : us < 2 ^ 16) :
    (ticksOf us clkHz).toNat = us * clkHz.toNat / 1000000 := by
  have h1 : us * clkHz.toNat ≤ 2 ^ 16 * 2 ^ 32 := Nat.mul_le_mul (by omega) (by omega)
  simp only [ticksOf, ticksNat, hzPerMegahertz, BitVec.toNat_ofNat]
  exact Nat.mod_eq_of_lt (by omega)

/-! ## Append (R121) -/

theorem append_full {e : Enc} (w : Entry) (h : e.cursor = e.capacity) :
    append w e = .overflow (e.withCursor 0) := by
  simp [append, h]

theorem append_room {e : Enc} (w : Entry) (h : e.cursor ≠ e.capacity) :
    append w e = .done { e with txbuf := cellWrite e.txbuf e.cursor.toNat w, cursor := e.cursor + 1 } := by
  simp [append, h]

/-- The memory after entries `ws` are stored at consecutive indices from `c` on. -/
def writeRun (m : Cells Entry) (c : Nat) : List Entry → Cells Entry
  | [] => m
  | w :: ws => writeRun (cellWrite m c w) (c + 1) ws

/-- Reading after a run of stores: the stored entry inside the run, the old value outside it. -/
theorem cellRead_writeRun (m : Cells Entry) (c : Nat) (ws : List Entry) (j : Nat) :
    cellRead (writeRun m c ws) j = if c ≤ j ∧ j < c + ws.length then ws[j - c]? else cellRead m j := by
  induction ws generalizing m c with
  | nil => simp [writeRun]
  | cons w ws ih =>
    simp only [writeRun, ih, cellRead_write, List.length_cons]
    by_cases h1 : j = c
    · subst h1; simp
    · by_cases h2 : c + 1 ≤ j ∧ j < c + 1 + ws.length
      · rw [if_pos h2, if_pos (by omega)]
        obtain ⟨n, rfl⟩ : ∃ n, j = c + (n + 1) := ⟨j - c - 1, by omega⟩
        have : c + (n + 1) - (c + 1) = n := by omega
        simp [this]
      · rw [if_neg h2, if_neg h1, if_neg (by omega)]

theorem cellsWf_writeRun {m : Cells Entry} {c : Nat} {ws : List Entry} (h : cellsWf m = true) :
    cellsWf (writeRun m c ws) = true := by
  induction ws generalizing m c with
  | nil => exact h
  | cons w ws ih => exact ih (cellsWf_write h)

theorem cursor_succ {e : Enc} (h : e.cursor.toNat < e.capacity.toNat) :
    (e.cursor + 1).toNat = e.cursor.toNat + 1 := by
  have := e.capacity.isLt
  have h1 : (1 : Count).toNat = 1 := rfl
  rw [BitVec.toNat_add, h1]
  omega

/-- Appends with room for all of them: every entry is stored, the cursor moves past them. -/
theorem appendAll_fits {ws : List Entry} {e : Enc} (h : e.cursor.toNat + ws.length ≤ e.capacity.toNat) :
    appendAll ws e = .done { e with txbuf := writeRun e.txbuf e.cursor.toNat ws,
                                    cursor := BitVec.ofNat 16 (e.cursor.toNat + ws.length) } := by
  induction ws generalizing e with
  | nil => simp [appendAll, writeRun]
  | cons w ws ih =>
    simp only [List.length_cons] at h
    have hlt : e.cursor.toNat < e.capacity.toNat := by omega
    have hc := cursor_succ hlt
    have hne : e.cursor ≠ e.capacity := fun he => by rw [he] at hlt; exact Nat.lt_irrefl _ hlt
    have := ih (e := { e with txbuf := cellWrite e.txbuf e.cursor.toNat w, cursor := e.cursor + 1 })
      (by simp only [hc]; omega)
    rw [appendAll, append_room w hne]
    simp only [this, hc, writeRun, List.length_cons, Nat.add_assoc, Nat.add_comm 1]

/-- Appends without room for all of them, from a cursor within the capacity: the entries that fit are stored, then the
failing append zeroes the cursor. -/
theorem appendAll_overflows {ws : List Entry} {e : Enc} (hc : e.cursor.toNat ≤ e.capacity.toNat)
    (h : e.capacity.toNat < e.cursor.toNat + ws.length) :
    appendAll ws e = .overflow
      { e with txbuf := writeRun e.txbuf e.cursor.toNat (ws.take (e.capacity.toNat - e.cursor.toNat)), cursor := 0 } := by
  induction ws generalizing e with
  | nil => simp only [List.length_nil] at h; omega
  | cons w ws ih =>
    simp only [List.length_cons] at h
    by_cases he : e.cursor = e.capacity
    · have h0 : e.capacity.toNat - e.cursor.toNat = 0 := by rw [he]; omega
      rw [appendAll, append_full w he, h0]
      rfl
    · have hlt : e.cursor.toNat < e.capacity.toNat := by
        have : e.cursor.toNat ≠ e.capacity.toNat := fun h => he (BitVec.eq_of_toNat_eq h)
        omega
      have hs := cursor_succ hlt
      obtain ⟨n, hn⟩ : ∃ n, e.capacity.toNat - e.cursor.toNat = n + 1 := ⟨_, (Nat.succ_pred (by omega)).symm⟩
      have hn' : e.capacity.toNat - (e.cursor.toNat + 1) = n := by omega
      have := ih (e := { e with txbuf := cellWrite e.txbuf e.cursor.toNat w, cursor := e.cursor + 1 })
        (by simp only [hs]; omega) (by simp only [hs]; omega)
      rw [appendAll, append_room w he]
      simp only [this, hs, hn', hn, List.take_succ_cons, writeRun]

/-- What a run of appends never touches, in every state: the configuration of ENC. -/
theorem appendAll_keeps (ws : List Entry) (e : Enc) :
    match appendAll ws e with
    | .done e' => e'.configured = e.configured ∧ e'.profile = e.profile ∧ e'.capacity = e.capacity
    | .overflow e' => e'.configured = e.configured ∧ e'.profile = e.profile ∧ e'.capacity = e.capacity ∧ e'.cursor = 0 := by
  induction ws generalizing e with
  | nil => exact ⟨rfl, rfl, rfl⟩
  | cons w ws ih =>
    by_cases he : e.cursor = e.capacity
    · rw [appendAll, append_full w he]; exact ⟨rfl, rfl, rfl, rfl⟩
    · rw [appendAll, append_room w he]
      exact ih { e with txbuf := cellWrite e.txbuf e.cursor.toNat w, cursor := e.cursor + 1 }

/-- Appends one after the other are the appends of the concatenation. -/
theorem appendAll_append (ws vs : List Entry) (e : Enc) :
    appendAll (ws ++ vs) e =
      match appendAll ws e with
      | .done e' => appendAll vs e'
      | .overflow e' => .overflow e' := by
  induction ws generalizing e with
  | nil => rfl
  | cons w ws ih =>
    simp only [List.cons_append, appendAll]
    cases append w e with
    | done e' => exact ih e'
    | overflow e' => rfl

/-! ## The tail of the emitting commands (R121, R128) -/

theorem emit_refused {ws : List Entry} {s : State} (h : representable s.enc.profile.ticks = false) :
    emit ws s = .refused .unrepresentable := by
  simp [emit, h]

theorem emit_done {ws : List Entry} {s : State} {e : Enc} (h : representable s.enc.profile.ticks = true)
    (ha : appendAll ws s.enc = .done e) : emit ws s = .next ((s.withEnc e).respond .enc (.ok .empty)) := by
  simp [emit, h, ha, returnOk]

theorem emit_overflow {ws : List Entry} {s : State} {e : Enc} (h : representable s.enc.profile.ticks = true)
    (ha : appendAll ws s.enc = .overflow e) :
    emit ws s = .next ((s.withEnc e).respond .enc (.fail .bufferOverflow)) := by
  simp [emit, h, ha, raiseError]

/-- Everything the tail of an emitting command can do. -/
theorem emit_cases (ws : List Entry) (s : State) :
    (representable s.enc.profile.ticks = false ∧ emit ws s = .refused .unrepresentable) ∨
    (representable s.enc.profile.ticks = true ∧ ∃ e, appendAll ws s.enc = .done e ∧
      emit ws s = .next ((s.withEnc e).respond .enc (.ok .empty))) ∨
    (representable s.enc.profile.ticks = true ∧ ∃ e, appendAll ws s.enc = .overflow e ∧
      emit ws s = .next ((s.withEnc e).respond .enc (.fail .bufferOverflow))) := by
  cases hr : representable s.enc.profile.ticks with
  | false => exact .inl ⟨rfl, emit_refused hr⟩
  | true =>
    cases ha : appendAll ws s.enc with
    | done e => exact .inr (.inl ⟨rfl, e, rfl, emit_done hr ha⟩)
    | overflow e => exact .inr (.inr ⟨rfl, e, rfl, emit_overflow hr ha⟩)

/-! ## The frame (R75) -/

@[simp] theorem length_bitWords (p : TimingProfile) {w : Nat} (v : BitVec w) (n : Nat) :
    (bitWords p v n).length = n := by simp [bitWords]

@[simp] theorem length_frameWords (p : TimingProfile) (a : Address) (c : Command) :
    (frameWords p a c).length = 51 := by simp [frameWords]

theorem getElem?_bitWords (p : TimingProfile) {w : Nat} (v : BitVec w) {n i : Nat} (h : i < n) :
    (bitWords p v n)[i]? = some (bitWord p (v.getLsbD i)) := by
  simp [bitWords, h]

/-! ## Reading RXSEQ (R54) -/

/-- Inside the sequence an RX read gives the listed entry. -/
theorem rxWord_listed {s : State} {h : Handle} {i : Nat} {w : Entry} (hw : (rxEntries s.rxseq h)[i]? = some w) :
    rxWord s h i = w := by
  simp [rxWord, hw]

/-- Past its end an RX read gives a free word. -/
theorem rxWord_free {s : State} {h : Handle} {i : Nat} (hw : (rxEntries s.rxseq h)[i]? = none) :
    rxWord s h i = Config.rxUnspecified s.rxDraws h i := by
  simp [rxWord, hw]

end Sys2Proof.Machine
end

