-- ==== Sys2Proof/Laws/PerInstr.lean ====
section
/-! SUPPORT. Statements made per command, one lemma per constructor. RowOpcode: the opcode a command is encoded with is the
one its row of the match and mask table fixes (spec/30_encoding.md rule R80). -/

namespace Sys2Proof.Laws.RowOpcode

/-- The command's word has its row's opcode in CW[63:60], and the row's mask covers the opcode. -/
def Statement (i : Instr) : Prop :=
  opcodeOf (encode i) = opcodeOf i.row.pattern ∧ opcodeOf i.row.mask = 0xF

/-- Or-ing fields below bit 60 leaves the opcode. -/
theorem opcodeOf_or (a b : CommandWord) : opcodeOf (a ||| b) = opcodeOf a ||| opcodeOf b := by
  apply BitVec.eq_of_getLsbD_eq
  intro i hi
  simp [opcodeOf, hi]

theorem opcodeOf_op (op : BitVec 4) : opcodeOf (fieldAt 60 op) = op := by
  apply BitVec.eq_of_getLsbD_eq
  intro i hi
  have h : 60 + i < 64 := by omega
  simp [opcodeOf, fieldAt, hi, h]

theorem opcodeOf_field {w lo : Nat} (v : BitVec w) (h : lo + w ≤ 60) : opcodeOf (fieldAt lo v) = 0 := by
  apply BitVec.eq_of_getLsbD_eq
  intro i hi
  have h1 : v.getLsbD (60 + i - lo) = false := BitVec.getLsbD_of_ge _ _ (by omega)
  simp [opcodeOf, fieldAt, h1]

theorem eCfg (clkHz : BitVec 32) (cap : Count) (ext inv : Bool) : Statement (.eCfg clkHz cap ext inv) := by
  refine ⟨?_, by simp only [Instr.row]; decide⟩
  simp only [encode, Instr.row, opcodeOf_or, opcodeOf_op]
  repeat rw [opcodeOf_field _ (by decide)]
  decide

theorem eReset : Statement .eReset := by unfold Statement; decide

theorem eHead : Statement .eHead := by unfold Statement; decide

theorem eBit (value : Bool) : Statement (.eBit value) := by cases value <;> (unfold Statement; decide)

theorem eEnd : Statement .eEnd := by unfold Statement; decide

theorem eBuild (address : Address) (command : Command) : Statement (.eBuild address command) := by
  refine ⟨?_, by simp only [Instr.row]; decide⟩
  simp only [encode, Instr.row, opcodeOf_or, opcodeOf_op]
  repeat rw [opcodeOf_field _ (by decide)]
  decide

theorem eResult : Statement .eResult := by unfold Statement; decide

theorem dCfg (clkHz : BitVec 32) (marginUs : BitVec 16) (ext inv : Bool) :
    Statement (.dCfg clkHz marginUs ext inv) := by
  refine ⟨?_, by simp only [Instr.row]; decide⟩
  simp only [encode, Instr.row, opcodeOf_or, opcodeOf_op]
  repeat rw [opcodeOf_field _ (by decide)]
  decide

theorem dInput (ref : Handle) (length : Count) : Statement (.dInput ref length) := by
  refine ⟨?_, by simp only [Instr.row]; decide⟩
  simp only [encode, Instr.row, opcodeOf_or, opcodeOf_op]
  repeat rw [opcodeOf_field _ (by decide)]
  decide

theorem dDecode : Statement .dDecode := by unfold Statement; decide

end Sys2Proof.Laws.RowOpcode
end

