-- ==== Sys2Proof/Machine/Text.lean ====
section
/-! DEFINITION. The textual syntax of commands and responses (spec/30_encoding.md rule R88). No meaning depends on it. -/

namespace Sys2Proof.Machine

/-- One hexadecimal digit, capitals as R88's examples print them. -/
def hexDigit (n : Nat) : Char := (['0', '1', '2', '3', '4', '5', '6', '7', '8', '9', 'A', 'B', 'C', 'D', 'E', 'F'][n]?).getD '0'

/-- The low `k` hexadecimal digits of `n`, most significant first. -/
def hexDigits : Nat → Nat → List Char
  | 0, _ => []
  | k + 1, n => hexDigits k (n / 16) ++ [hexDigit (n % 16)]

def hexText (k n : Nat) : String := String.ofList (hexDigits k n)

def bitText (b : Bool) : String := if b then "1" else "0"

/-- The command's line (R88). -/
def commandText : Instr → String
  | .eCfg clkHz cap ext inv =>
    "E_CFG clk_hz=" ++ toString clkHz.toNat ++ " cap=" ++ toString cap.toNat ++ " ext=" ++ bitText ext ++ " inv=" ++ bitText inv
  | .eReset => "E_RESET"
  | .eHead => "E_HEAD"
  | .eBit value => "E_BIT " ++ bitText value
  | .eEnd => "E_END"
  | .eBuild address command => "E_BUILD addr=" ++ hexText 4 address.toNat ++ " cmd=" ++ hexText 8 command.toNat
  | .eResult => "E_RESULT"
  | .dCfg clkHz marginUs ext inv =>
    "D_CFG clk_hz=" ++ toString clkHz.toNat ++ " margin_us=" ++ toString marginUs.toNat ++ " ext=" ++ bitText ext ++ " inv=" ++ bitText inv
  | .dInput ref length => "D_INPUT ref=" ++ toString ref.toNat ++ " len=" ++ toString length.toNat
  | .dDecode => "D_DECODE"

/-- The status name (R83). -/
def errorText : ErrorKind → String
  | .invalidArgument => "InvalidArgument"
  | .protocolMismatch => "ProtocolMismatch"
  | .bufferOverflow => "BufferOverflow"
  | .lengthMismatch => "LengthMismatch"
  | .decodeFailure => "DecodeFailure"

/-- The response's text, `-> <status>` or `-> OK(<data>)` (R88). -/
def responseText : Response → String
  | .ok .empty => "-> OK"
  | .ok (.count n) => "-> OK(" ++ toString n.toNat ++ ")"
  | .ok (.scan code) =>
    "-> OK(" ++ hexText 4 code.address.toNat ++ ", " ++ hexText 8 code.command.toNat ++ ", repeat " ++ bitText code.isRepeat ++ ")"
  | .fail error => "-> " ++ errorText error

end Sys2Proof.Machine
end

