-- ==== Sys2Proof/WellFormed.lean ====
section
/-! DEFINITION. Which commands and host actions are well formed. Every operand of a command has the type of its field
(spec/30_encoding.md rules R79 and R81: an unsigned field as it stands, every value allowed), so every command is well
formed; the arguments the hardware rejects (cap = 0, clk_hz = 0, ref = 0, a wrong length) are run-time errors that the
commands answer (R202, R206), not ill-formed commands. A host action that names a sequence must not name the null handle
(spec/20_memory.md rule R53: "named by a non-zero 16-bit handle"). -/

namespace Sys2Proof

/-- Every command is well formed: the field types leave nothing to check. -/
def Instr.wellFormed : Instr → Bool
  | .eCfg _ _ _ _ => true
  | .eReset => true
  | .eHead => true
  | .eBit _ => true
  | .eEnd => true
  | .eBuild _ _ => true
  | .eResult => true
  | .dCfg _ _ _ _ => true
  | .dInput _ _ => true
  | .dDecode => true

/-- A host action is well formed unless it places or frees the sequence of the null handle. -/
def HostAction.wellFormed : HostAction → Bool
  | .command _ => true
  | .rxPlace handle _ => decide (handle ≠ 0)
  | .rxFree handle => decide (handle ≠ 0)
  | .txRead _ => true

end Sys2Proof
end

