-- ==== Sys2Proof/Tests/Slice0.lean ====
section
/-! SUPPORT. Small tests: expected values are those printed in spec/95_test_vectors.md and in the rules' own examples. -/

namespace Sys2Proof.Tests

open Sys2Proof.Machine

/-! ## Well-formedness -/

theorem test_wf_null_place : (HostAction.rxPlace 0 [0]).wellFormed = false := by decide
theorem test_wf_null_free : (HostAction.rxFree 0).wellFormed = false := by decide
theorem test_wf_place : (HostAction.rxPlace 1 [0]).wellFormed = true := by decide

/-! ## Decoding: the words of section 2.2, 3.1, 3.3, 4.2 -/

theorem test_decode_eCfg_T2 : decode 0x00030040000F4240 = .ok (.eCfg 1000000 64 true true) := by decide
theorem test_decode_eReset : decode 0x1000000000000000 = .ok .eReset := by decide
theorem test_decode_eHead : decode 0x2000000000000000 = .ok .eHead := by decide
theorem test_decode_eBit_1 : decode 0x3000000000000001 = .ok (.eBit true) := by decide
theorem test_decode_eBit_0 : decode 0x3000000000000000 = .ok (.eBit false) := by decide
theorem test_decode_eEnd : decode 0x4000000000000000 = .ok .eEnd := by decide
theorem test_decode_eBuild_F1 : decode 0x5000BF4000FFB24D = .ok (.eBuild 0xB24D 0xBF4000FF) := by decide
theorem test_decode_eResult : decode 0x6000000000000000 = .ok .eResult := by decide
theorem test_decode_dCfg_T9 : decode 0x800200C8000F4240 = .ok (.dCfg 1000000 200 false true) := by decide
theorem test_decode_dInput_I2 : decode 0x9000000000010033 = .ok (.dInput 1 51) := by decide
theorem test_decode_dDecode : decode 0xA000000000000000 = .ok .dDecode := by decide
/-- Program P5: every listed word is illegal. -/
theorem test_decode_P5 :
    [ decode 0x7000000000000000, decode 0xB000000000000000, decode 0xF00000000000002A, decode 0x1000000000000001,
      decode 0x3000000000000002, decode 0x00040040000F4240, decode 0x5001BF4000FFB24D, decode 0x6000000000000033,
      decode 0x9000000100010032, decode 0xA000000000000001, decode 0x80040000000F4240 ] =
    [ .error (.reservedOpcode 7), .error (.reservedOpcode 0xB), .error (.reservedOpcode 0xF),
      .error (.mustBeZero "E_RESET"), .error (.mustBeZero "E_BIT"), .error (.mustBeZero "E_CFG"),
      .error (.mustBeZero "E_BUILD"), .error (.mustBeZero "E_RESULT"), .error (.mustBeZero "D_INPUT"),
      .error (.mustBeZero "D_DECODE"), .error (.mustBeZero "D_CFG") ] := by decide
theorem test_encode_F1 : encode (.eBuild 0xB24D 0xBF4000FF) = 0x5000BF4000FFB24D := by decide
theorem test_encode_T8 : encode (.dCfg 1000000 200 false false) = 0x800000C8000F4240 := by decide
theorem test_table_word : decodeTableWord 64 0x9000000000010032 = some (.dInput 1 50) := by decide

/-! ## Ticks (R110) -/

theorem test_ticks_38k : ticksFor 38000 = ⟨162, 171, 21, 21, 21, 64, 21, 209⟩ := by decide
theorem test_ticks_2M : ticksFor 2000000 = ⟨8560, 9000, 1120, 1120, 1120, 3380, 1120, 11000⟩ := by decide
theorem test_ticks_ceiling :
    representable (ticksFor 5957818) = true ∧ representable (ticksFor 5957819) = false := by decide

/-! ## States the tests start from -/

/-- The configuration of vector T1 with a chosen capacity, flags and clock. -/
def encAt (clkHz : BitVec 32) (cap : Count) (ext inv : Bool) : State :=
  State.reset.withEnc (encConstructed clkHz cap ext inv)

/-- The configuration of vector T8 with a chosen margin and polarity. -/
def decAt (marginUs : BitVec 16) (inv : Bool) : State :=
  State.reset.withDec (decConstructed 1000000 marginUs false inv)

/-- A scenario's sequence at 1 MHz from its data bits: head, the bits' words, end word. -/
def words (bits : List Nat) (head one zero last : Entry) : List Entry :=
  head :: (bits.map (fun b => if b = 1 then one else zero) ++ [last])

/-- The 48 data bits of scenario 1, bit 0 first (section 1). -/
def scenario1Bits : List Nat :=
  [1,0,1,1, 0,0,1,0, 0,1,0,0, 1,1,0,1] ++ [1,1,1,1, 1,1,1,1, 0,0,0,0, 0,0,0,0] ++ [0,0,0,0, 0,0,1,0, 1,1,1,1, 1,1,0,1]

/-- S3 of section 4.1. -/
def s3 : List Entry := words scenario1Bits 0x119490B8 0x069A8230 0x02308230 0x00008230

/-- DEC holding a reference to sequence 1. -/
def decWith (marginUs : BitVec 16) (inv : Bool) (ws : List Entry) : State :=
  ((decAt marginUs inv).withDec ((decConstructed 1000000 marginUs false inv).withInput 1 50)).withRxseq [(1, ws)]

/-- The next state's decoder response, nothing on a stop. -/
def decAnswer : Host.Outcome State Fault Refusal → Option Response
  | .next s => s.decRsp
  | .fault _ => none
  | .refused _ => none

/-- The next state's encoder response, cursor and the entries 0 to n - 1, nothing on a stop. -/
def encAnswer (n : Nat) : Host.Outcome State Fault Refusal → Option (Option Response × Nat × List (Option Entry))
  | .next s => some (s.encRsp, s.enc.cursor.toNat, (List.range n).map (cellRead s.enc.txbuf))
  | .fault _ => none
  | .refused _ => none

/-! ## Encoder (sections 2.2, 3) -/

theorem test_eCfg_T3 : exec (.eCfg 1000000 0 false false) State.reset =
    .next (State.reset.respond .enc (.fail .invalidArgument)) := by rfl
theorem test_eCfg_T1 : encAnswer 1 (exec (.eCfg 1000000 64 false false) State.reset) =
    some (some (.ok .empty), 0, [none]) := by decide
theorem test_eHead_B1 : encAnswer 1 (exec .eHead (encAt 1000000 64 false false)) =
    some (some (.ok .empty), 1, [some 0x119490B8]) := by decide
theorem test_eHead_inverted : encAnswer 1 (exec .eHead (encAt 1000000 64 false true)) =
    some (some (.ok .empty), 1, [some 0x919410B8]) := by decide
theorem test_eBit_1 : encAnswer 1 (exec (.eBit true) (encAt 1000000 64 false false)) =
    some (some (.ok .empty), 1, [some 0x069A8230]) := by decide
theorem test_eBit_0_2M : encAnswer 1 (exec (.eBit false) (encAt 2000000 64 false false)) =
    some (some (.ok .empty), 1, [some 0x04608460]) := by decide
theorem test_eEnd : encAnswer 2 (exec .eEnd (encAt 1000000 64 false false)) =
    some (some (.ok .empty), 2, [some 0x157C8230, some 0]) := by decide
/-- R127: the ending entry fits, the terminator overflows. -/
theorem test_eEnd_overflow : encAnswer 2 (exec .eEnd (encAt 1000000 1 false false)) =
    some (some (.fail .bufferOverflow), 0, [some 0x157C8230, none]) := by decide
theorem test_eBuild_F1 : encAnswer 52 (exec (.eBuild 0xB24D 0xBF4000FF) (encAt 1000000 64 false false)) =
    some (some (.ok .empty), 51,
      (words scenario1Bits 0x119490B8 0x069A8230 0x02308230 0x157C8230).map some ++ [some 0, none]) := by decide
/-- F15: ten entries fit. -/
theorem test_eBuild_F15 : encAnswer 11 (exec (.eBuild 0x1234 0xDEADBEEF) (encAt 1000000 10 true false)) =
    some (some (.fail .bufferOverflow), 0,
      [some 0x119490B8, some 0x02308230, some 0x02308230, some 0x069A8230, some 0x02308230, some 0x069A8230,
       some 0x069A8230, some 0x02308230, some 0x02308230, some 0x02308230, none]) := by decide
/-- F3, F10, F11, F12: every clause of the redundancy convention is needed. -/
theorem test_redundant :
    [ redundant 0xB24D 0xBF4000FF, redundant 0xB24D 0xDD2207F8, redundant 0x0001 0x00000001,
      redundant 0xB24D 0x00000001, redundant 0xB24D 0xBF4000FE, redundant 0xB24D 0xBF4100FF ] =
    [true, true, false, false, false, false] := by decide
/-- T6: at 8 MHz E_RESULT still answers. -/
theorem test_eResult_8M : encAnswer 0 (exec .eResult (encAt 8000000 64 false false)) =
    some (some (.ok (.count 0)), 0, []) := by decide
theorem test_eReset : encAnswer 1 (exec .eReset ((encAt 1000000 4 false false).withEnc
      { encConstructed 1000000 4 false false with cursor := 1, txbuf := [(0, 7)] })) =
    some (some (.ok .empty), 0, [some 7]) := by decide

/-! ## Decoder (section 4) -/

theorem test_dCfg_T12 : (decConstructed 38000 200 false false).profile.margin = 7 := by decide
theorem test_dCfg_T10 : decAnswer (exec (.dCfg 0 200 false false) State.reset) = some (.fail .invalidArgument) := by decide
theorem test_dInput_I2 : exec (.dInput 1 51) (decWith 200 false s3) =
    .next (((decWith 200 false s3).withDec (decConstructed 1000000 200 false false)).respond .dec
      (.fail .lengthMismatch)) := by rfl
theorem test_dInput_I6 : decAnswer (exec (.dInput 0 51) (decAt 200 false)) = some (.fail .invalidArgument) := by decide
theorem test_dDecode_S3 : decAnswer (exec .dDecode (decWith 200 false s3)) =
    some (.ok (.scan ⟨0xB24D, 0xBF4000FF, false⟩)) := by decide
/-- V15, V33: the builder's own ending entry fails. -/
theorem test_dDecode_V15 : decAnswer (exec .dDecode (decWith 200 false (s3.set 49 0x157C8230))) =
    some (.fail .decodeFailure) := by decide
/-- V13 and V14: the strict window around zero. -/
theorem test_endOk_window :
    endOk (decAt 200 false).dec.profile 0x00C78230 = true ∧ endOk (decAt 200 false).dec.profile 0x00C88230 = false := by
  decide
/-- V1 to V4. -/
theorem test_headOk_window :
    [0x1194917F, 0x11949180, 0x11948FF1, 0x11948FF0].map (headOk (decAt 200 false).dec.profile) =
      [true, false, true, false] := by decide
/-- V22, V17, V24, V25, and V39 at margin 566 (both templates). -/
theorem test_bitOf :
    [0x02F78230, 0x07628230, 0x069A0230, 0x869A8230].map (bitOf (decAt 200 false).dec.profile) =
      [some false, none, none, none] ∧ bitOf (decAt 566 false).dec.profile 0x04658230 = none := by decide
/-- Log entry 18: at 500 kHz with margin 283, which is Distinguishable by R156's bound, a zero's second duration moved
to target + margin reads as a one (R154, R159), not as the failure of R185's second sentence. So it does at 1 MHz with
margin 600, which is not Distinguishable: 1160 is outside the zero's window and inside the one's. -/
theorem test_bitOf_R185 :
    bitOf { ticks := ticksFor 500000, margin := 283, inverted := false, ext := false } (entryOf true 280 false 563) =
      some true ∧
    bitOf (decAt 600 false).dec.profile (entryOf true 560 false 1160) = some true ∧
    isZero (decAt 600 false).dec.profile (entryOf true 560 false 1160) = false ∧
    2 * ((283 : Tick).toNat : Int) - 1 ≤ (ticksFor 500000).l1Lo.toNat - (ticksFor 500000).l0Lo.toNat := by decide
/-- Log entry 18: R185 gives this one word two results, a failure as a zero moved to target + margin, and an unchanged one
as a one moved to target - (margin - 1). -/
theorem test_R185_two_ways :
    ((dur2 (entryOf true 280 false 563)).toNat = (ticksFor 500000).l0Lo.toNat + 283) ∧
    ((dur2 (entryOf true 280 false 563)).toNat = (ticksFor 500000).l1Lo.toNat - (283 - 1)) := by decide
/-- The table of section 4.4. -/
theorem test_match :
    [ tolerates 4280 4280 1, tolerates 4280 4280 0, tolerates 4479 4280 200, tolerates 4480 4280 200,
      tolerates 4081 4280 200, tolerates 4080 4280 200, tolerates 0 0 200, tolerates 199 0 200, tolerates 200 0 200,
      tolerates 0 0 0, tolerates 0 560 560, tolerates 0 560 561, tolerates 32767 44000 200, tolerates 32767 32768 2 ] =
    [true, false, true, false, true, false, true, true, false, false, false, true, false, true] := by decide

/-! ## Responses, steps, ports, text -/

theorem test_response_words :
    [ responseWord (.fail .invalidArgument), responseWord (.ok (.count 51)), responseWord (.fail .decodeFailure),
      responseWord (.ok (.scan ⟨0xB24D, 0xBF4000FF, false⟩)) ] =
    [0x1000000000000000, 0x33, 0x5000000000000000, 0x0000BF4000FFB24D] := by decide
/-- P1 step 1: an unconfigured ENC, run as the first command after reset. -/
theorem test_step_P1 : encAnswer 0 (step (State.reset.withFetchWord 64 0x5000BF4000FFB24D)) =
    some (some (.fail .invalidArgument), 0, []) := by decide
theorem test_step_illegal : decAnswer (step (State.reset.withFetchWord 64 0xF00000000000002A)) =
    some (.fail .invalidArgument) := by decide
theorem test_txRead_unwritten : runTxRead 0 (encAt 1000000 4 false false) = .fault (.txUnwritten 0) := by rfl
theorem test_loopback : loopback (frameWords (encConstructed 1000000 51 false false).profile 0xB24D 0xBF4000FF) = s3 := by
  decide
theorem test_frame_ticks :
    sequenceTicks (words scenario1Bits 0x119490B8 0x069A8230 0x02308230 0x157C8230) = 95720 := by decide
/-- R245: of an E_HEAD, a read of its entry and an E_RESULT the two responses and the entry below the cursor are
observable, the read is not. -/
theorem test_observe :
    observe [.command 0x2000000000000000, .txRead 0, .command 0x6000000000000000] (encAt 1000000 64 false false) =
      [.response (some (.ok .empty)), .result (some (.ok (.count 1))) [some 0x119490B8]] := by decide
theorem test_text : commandText (.eBuild 0xB24D 0xBF4000FF) = "E_BUILD addr=B24D cmd=BF4000FF" := by decide

/-! ## Witnesses: for each statement with hypotheses, states and operands that meet them, at the boundaries -/

/-- ENC at 1 MHz holding one written entry per index below its cursor. -/
def encFull (cap cursor : Nat) (ext : Bool) : State :=
  State.reset.withEnc { encConstructed 1000000 (BitVec.ofNat 16 cap) ext false with
    cursor := BitVec.ofNat 16 cursor, txbuf := (List.range cursor).map fun i => (i, BitVec.ofNat 32 i) }

/-- Both sub-blocks configured at 1 MHz, ENC with capacity 51. -/
def bothAt (marginUs : BitVec 16) (ext inv : Bool) : State :=
  (encAt 1000000 51 ext inv).withDec (decConstructed 1000000 marginUs false inv)

/-- A state with these host actions issued. -/
def issue (as : List HostAction) (s : State) : State := s.withPending as

/-- The margin of vector T8 keeps the two bit templates apart, at either polarity. -/
theorem distinguishable_margin_200 (inv : Bool) : Distinguishable (decConstructed 1000000 200 false inv).profile := by
  rintro ⟨d1, d2, _, h2, _, h4⟩
  have h0 : (decConstructed 1000000 200 false inv).profile.ticks.l0Lo.toNat = 560 := by rfl
  have h1 : (decConstructed 1000000 200 false inv).profile.ticks.l1Lo.toNat = 1690 := by rfl
  have hm : (decConstructed 1000000 200 false inv).profile.margin.toNat = 200 := by rfl
  rw [tolerates_iff, h0, hm] at h2
  rw [tolerates_iff, h1, hm] at h4
  omega

theorem margin_200_ne_zero (inv : Bool) : (decConstructed 1000000 200 false inv).profile.margin ≠ 0 := by
  cases inv <;> decide

theorem encInv_encFull_3_2 : EncInv (encFull 3 2 false).enc := by
  refine ⟨by decide, fun _ => ⟨by decide, by decide, by decide, ⟨1000000, by decide, rfl⟩, fun i w h => ?_, fun i h => ?_⟩⟩
  · by_contra hn
    have h3 : 3 ≤ i := Nat.le_of_not_lt hn
    have : cellRead (encFull 3 2 false).enc.txbuf i = none :=
      (if_neg (show i ≠ 0 by omega)).trans (if_neg (show i ≠ 1 by omega))
    rw [this] at h
    cases h
  · have h2 : i < 2 := h
    rcases (show i = 0 ∨ i = 1 by omega) with rfl | rfl
    · exact ⟨_, rfl⟩
    · exact ⟨_, rfl⟩

theorem encInv_constructed (cap : Count) (ext inv : Bool) (h : 0 < cap.toNat) :
    EncInv (encConstructed 1000000 cap ext inv) :=
  ⟨rfl, fun _ => ⟨h, Nat.zero_le _, rfl, ⟨1000000, by decide, rfl⟩, fun i w hw => by simp [encConstructed, cellRead] at hw,
    fun i hi => absurd hi (Nat.not_lt_zero i)⟩⟩

theorem decInv_constructed (marginUs : BitVec 16) (inv : Bool) : DecInv (decConstructed 1000000 marginUs false inv) :=
  fun _ => ⟨⟨1000000, marginUs, by decide, rfl, rfl⟩, .inl ⟨rfl, rfl⟩⟩

theorem decInv_decWith (inv : Bool) (ws : List Entry) : DecInv (decWith 200 inv ws).dec :=
  fun _ => ⟨⟨1000000, 200, by decide, rfl, rfl⟩, .inr ⟨(by decide : (1 : Handle) ≠ 0), rfl⟩⟩

theorem decInv_reset : DecInv State.reset.dec := fun h => by cases h

theorem encInv_reset : EncInv State.reset.enc := ⟨rfl, fun h => by cases h⟩

theorem noScan_reset : ∀ b code, State.reset.response b = some (.ok (.scan code)) → code.isRepeat = false := by
  intro b code h
  cases b <;> cases h

theorem inv_encFull_3_2 : (encFull 3 2 false).Inv := ⟨encInv_encFull_3_2, decInv_reset, rfl, noScan_reset⟩

theorem inv_encAt (cap : Count) (ext inv : Bool) (h : 0 < cap.toNat) : (encAt 1000000 cap ext inv).Inv :=
  ⟨encInv_constructed cap ext inv h, decInv_reset, rfl, noScan_reset⟩

theorem inv_decWith (inv : Bool) : (decWith 200 inv s3).Inv := ⟨encInv_reset, decInv_decWith inv s3, by rfl, noScan_reset⟩

/-! ### Encodings -/

theorem witness_EncodeOfDecodeIsTheWord : decode 0x0003FFFFFFFFFFFF = .ok (.eCfg 0xFFFFFFFF 0xFFFF true true) := by decide
theorem witness_FormatsReadTheirFields :
    decode 0x0003FFFFFFFFFFFF = .ok (.eCfg 0xFFFFFFFF 0xFFFF true true) ∧
    decode 0x8003FFFFFFFFFFFF = .ok (.dCfg 0xFFFFFFFF 0xFFFF true true) ∧
    decode 0x3000000000000001 = .ok (.eBit true) ∧
    decode 0x5000FFFFFFFFFFFF = .ok (.eBuild 0xFFFF 0xFFFFFFFF) ∧
    decode 0x90000000FFFFFFFF = .ok (.dInput 0xFFFF 0xFFFF) ∧ decode 0xA000000000000000 = .ok .dDecode := by decide
theorem witness_IllegalWordIsAnsweredInvalidArgument :
    (issue [.command 0x7000000000000000] State.reset).pending = [.command 0x7000000000000000] ∧
    (∀ r ∈ opcodeTable, (0x7000000000000000 : CommandWord) &&& r.mask ≠ r.pattern) ∧
    (∀ r ∈ opcodeTable, (0xF00000000000002A : CommandWord) &&& r.mask ≠ r.pattern) ∧
    (∀ r ∈ opcodeTable, (0x0004000000000000 : CommandWord) &&& r.mask ≠ r.pattern) := by decide

/-! ### Steps, reset, ports -/

theorem witness_StepRunsTheDecodedCommand :
    (issue [.command 0xA000000000000000] State.reset).pending = .command 0xA000000000000000 :: [] ∧
    decode 0xA000000000000000 = .ok .dDecode := by decide
theorem witness_StepRunsTheHostsOtherActions :
    State.reset.pending = [] ∧
    (issue [.rxPlace 1 [7]] State.reset).pending = .rxPlace 1 [7] :: [] ∧
    (issue [.rxPlace 0xFFFF []] State.reset).pending = .rxPlace 0xFFFF [] :: [] ∧
    (issue [.rxFree 1] (decWith 200 false s3)).pending = .rxFree 1 :: [] ∧
    rxWf State.reset.rxseq = true ∧ rxWf (decWith 200 false s3).rxseq = true := by decide
theorem witness_TxbufReadPort :
    (encFull 3 2 false).enc.configured = true ∧ cellRead (encFull 3 2 false).enc.txbuf 1 = some 1 ∧
    cellRead (encFull 3 2 false).enc.txbuf 2 = none ∧ 2 < (encFull 3 2 false).enc.capacity.toNat ∧
    (encFull 3 2 false).enc.capacity.toNat ≤ 3 ∧ State.reset.enc.configured = false := by decide
theorem witness_UnconfiguredSubBlockAnswersInvalidArgument :
    Instr.eReset.isConfig = false ∧ Instr.dDecode.isConfig = false ∧ State.reset.configured .enc = false ∧
    State.reset.configured .dec = false := by decide
theorem witness_ConfiguredIsSetByConfigurationAndNeverCleared :
    (∃ t, exec (.dCfg 1 0 false false) State.reset = .next t ∧ t.response .dec = some (.ok .empty)) ∧
    (∃ t, exec (.eCfg 1 1 false false) State.reset = .next t ∧ t.response .enc = some (.ok .empty)) ∧
    (∃ t, step (issue [.command 0x8000000000000000] (decAt 200 false)) = .next t) ∧
    (decAt 200 false).configured .dec = true := ⟨⟨_, rfl, rfl⟩, ⟨_, rfl, rfl⟩, ⟨_, rfl⟩, rfl⟩

/-! ### Configuration -/

theorem witness_TickConversionIsExact :
    ticksNat 5500 0xFFFFFFFF = 23622320 ∧ ticksNat 65535 0xFFFFFFFF = 281470681 ∧ ticksNat 560 999999 ≤ ticksNat 561 1000000 := by
  decide
theorem witness_configuration_operands :
    (1 : Count) ≠ 0 ∧ (1 : BitVec 32) ≠ 0 ∧ (0xFFFF : Count) ≠ 0 ∧ (0xFFFFFFFF : BitVec 32) ≠ 0 := by decide
theorem witness_ProfilesAreReplacedOnlyByConfiguration :
    (∃ t, step (issue [.command 0x0000000100000001] (encAt 1000000 64 true true)) = .next t ∧ t.enc.capacity = 1) ∧
    (∃ t, step (issue [.command 0x1000000000000000] (encAt 1000000 64 true true)) = .next t ∧ t.enc.capacity = 64) :=
  ⟨⟨_, rfl, rfl⟩, ⟨_, rfl, rfl⟩⟩

/-! ### The encoder's commands -/

/-- Unconfigured; the last free entry, the two last, a full buffer. Serves the statements of E_RESET, E_HEAD, E_BIT,
E_END and E_RESULT. -/
theorem witness_encoder_commands :
    State.reset.enc.configured = false ∧
    ((encFull 3 2 false).enc.configured = true ∧ representable (encFull 3 2 false).enc.profile.ticks = true ∧
      (encFull 3 2 false).enc.cursor ≠ (encFull 3 2 false).enc.capacity ∧
      (encFull 3 2 false).enc.cursor + 1 = (encFull 3 2 false).enc.capacity) ∧
    ((encFull 3 1 false).enc.configured = true ∧ representable (encFull 3 1 false).enc.profile.ticks = true ∧
      (encFull 3 1 false).enc.cursor ≠ (encFull 3 1 false).enc.capacity ∧
      (encFull 3 1 false).enc.cursor + 1 ≠ (encFull 3 1 false).enc.capacity) ∧
    ((encFull 3 3 false).enc.configured = true ∧ representable (encFull 3 3 false).enc.profile.ticks = true ∧
      (encFull 3 3 false).enc.cursor = (encFull 3 3 false).enc.capacity) := by decide
theorem witness_BuildWritesTheFrame :
    (encAt 5957818 51 false false).enc.configured = true ∧
    representable (encAt 5957818 51 false false).enc.profile.ticks = true ∧
    51 ≤ (encAt 5957818 51 false false).enc.capacity.toNat ∧ redundant 0xB24D 0xBF4000FF = true ∧
    representable (encAt 1000000 51 true false).enc.profile.ticks = true ∧
    (encAt 1000000 51 true false).enc.profile.ext = true ∧ redundant 0x1234 0xDEADBEEF = false := by decide
theorem witness_BuildRejectsNonRedundantCodes :
    (encAt 1000000 51 false false).enc.configured = true ∧ (encAt 1000000 51 false false).enc.profile.ext = false ∧
    ¬ ((0x1234 : Address).extractLsb' 0 8 = ~~~((0x1234 : Address).extractLsb' 8 8) ∧
      (0xDEADBEEF : Command).extractLsb' 16 8 = ~~~((0xDEADBEEF : Command).extractLsb' 24 8) ∧
      (0xDEADBEEF : Command).extractLsb' 0 8 = ~~~((0xDEADBEEF : Command).extractLsb' 8 8)) ∧
    (encAt 1000000 51 true false).enc.profile.ext = true := by decide
theorem witness_BuildOverflowsASmallBuffer :
    (encAt 1000000 50 false false).enc.configured = true ∧
    representable (encAt 1000000 50 false false).enc.profile.ticks = true ∧
    (encAt 1000000 50 false false).enc.capacity.toNat < 51 ∧ 51 ≤ (encAt 1000000 51 false false).enc.capacity.toNat ∧
    redundant 0xB24D 0xBF4000FF = true := by decide
theorem witness_PopulatedEntriesAreWritten : (encFull 3 2 false).Inv ∧ (encFull 3 2 false).enc.configured = true :=
  ⟨inv_encFull_3_2, rfl⟩
theorem witness_UnrepresentableTemplatesAreRefused :
    (encAt 5957819 51 false false).enc.configured = true ∧
    representable (encAt 5957819 51 false false).enc.profile.ticks = false ∧
    (encAt 5957819 51 false false).enc.profile.ext = false ∧ redundant 0xB24D 0xBF4000FF = true ∧
    redundant 0x1234 0xDEADBEEF = false := by decide
theorem witness_EncoderCommandsFrame :
    (∃ t, exec (.eCfg 1 1 false false) (encFull 3 1 true) = .next t) ∧ (∃ t, exec .eReset (encFull 3 1 true) = .next t) ∧
    (∃ t, exec .eHead (encFull 3 1 true) = .next t) ∧ (∃ t, exec (.eBit true) (encFull 3 1 true) = .next t) ∧
    (∃ t, exec .eEnd (encFull 3 1 true) = .next t) ∧ (∃ t, exec (.eBuild 0 0) (encFull 3 1 true) = .next t) ∧
    (∃ t, exec .eResult (encFull 3 1 true) = .next t) :=
  ⟨⟨_, rfl⟩, ⟨_, rfl⟩, ⟨_, rfl⟩, ⟨_, rfl⟩, ⟨_, rfl⟩, ⟨_, rfl⟩, ⟨_, rfl⟩⟩

/-! ### The decoder's commands -/

theorem witness_DecoderCommandsFrame :
    (∃ t, exec (.dCfg 1 0 false false) (decWith 200 false s3) = .next t) ∧
    (∃ t, exec (.dInput 1 50) (decWith 200 false s3) = .next t) ∧
    (∃ t, exec .dDecode (decWith 200 false s3) = .next t) := ⟨⟨_, rfl⟩, ⟨_, rfl⟩, ⟨_, rfl⟩⟩
theorem witness_InputStoresOnlyLengthFifty :
    State.reset.dec.configured = false ∧ (decAt 200 false).dec.configured = true ∧ (1 : Handle) ≠ 0 ∧
    (49 : Count) ≠ 50 ∧ (51 : Count) ≠ 50 := by decide
theorem witness_MatchBoundaries :
    (((479 : Duration).toNat : Int) = (280 : Tick).toNat + ((200 : Tick).toNat - 1)) ∧
    (((81 : Duration).toNat : Int) = (280 : Tick).toNat - ((200 : Tick).toNat - 1)) ∧
    (((280 : Tick).toNat : Int) + (200 : Tick).toNat ≤ (480 : Duration).toNat) ∧
    (((80 : Duration).toNat : Int) ≤ ((280 : Tick).toNat : Int) - (200 : Tick).toNat) ∧
    32767 + (1 : Tick).toNat ≤ (32768 : Tick).toNat := by decide
theorem witness_BitClassification : Distinguishable (decAt 200 false).dec.profile := distinguishable_margin_200 false
theorem witness_DistinguishableIsAMarginBound :
    (5957818 : BitVec 32).toNat ≤ 5957818 ∧ (1000000 : BitVec 32).toNat ≤ 5957818 ∧
    2 * ((565 : Tick).toNat : Int) - 1 ≤ (ticksFor 1000000).l1Lo.toNat - (ticksFor 1000000).l0Lo.toNat ∧
    ¬ 2 * ((566 : Tick).toNat : Int) - 1 ≤ (ticksFor 1000000).l1Lo.toNat - (ticksFor 1000000).l0Lo.toNat := by decide
/-- Unconfigured; no reference; every entry classifies; the ending entry does not. -/
theorem witness_DecodeSucceedsExactlyWhenAllClassify :
    State.reset.dec.configured = false ∧ (decAt 200 false).dec.ref = 0 ∧
    ((decWith 200 false s3).dec.configured = true ∧ (decWith 200 false s3).dec.ref ≠ 0 ∧
      headOk (decWith 200 false s3).dec.profile (rxWord (decWith 200 false s3) 1 0) = true ∧
      endOk (decWith 200 false s3).dec.profile (rxWord (decWith 200 false s3) 1 49) = true ∧
      ∀ k < 48, bitOf (decWith 200 false s3).dec.profile (rxWord (decWith 200 false s3) 1 (1 + k)) ≠ none) ∧
    ((decWith 200 false (s3.set 49 0x157C8230)).dec.ref ≠ 0 ∧
      ¬ endOk (decWith 200 false s3).dec.profile (rxWord (decWith 200 false (s3.set 49 0x157C8230)) 1 49) = true) := by
  decide
/-- A sequence of two entries, the last listed one and the first free one. -/
theorem witness_DecodeOfAnySequenceCompletes :
    (decWith 200 false [5, 6]).dec.configured = true ∧ (decWith 200 false [5, 6]).dec.ref ≠ 0 ∧
    (rxEntries (decWith 200 false [5, 6]).rxseq 1)[1]? = some 6 ∧
    (rxEntries (decWith 200 false [5, 6]).rxseq 1)[2]? = none := by decide
/-- The two states differ in `ext`, in the ending-low register, in the last-decoded hint and in ENC. -/
theorem witness_DecodeDependsOnlyOnWhatItReads :
    ∃ s s' t t' : State, s ≠ s' ∧ s.dec.configured = s'.dec.configured ∧ s.dec.ref = s'.dec.ref ∧
      { s.dec.profile.ticks with endLo := 0 } = { s'.dec.profile.ticks with endLo := 0 } ∧
      s.dec.profile.margin = s'.dec.profile.margin ∧ s.dec.profile.inverted = s'.dec.profile.inverted ∧
      (∀ i < 50, rxWord s s.dec.ref i = rxWord s' s'.dec.ref i) ∧ exec .dDecode s = .next t ∧
      exec .dDecode s' = .next t' ∧ t.decRsp = some (.ok (.scan ⟨0xB24D, 0xBF4000FF, false⟩)) := by
  refine ⟨decWith 200 false s3, (decWith 200 false s3).withDec { (decWith 200 false s3).dec with
      lastAddr := 1, profile := { (decWith 200 false s3).dec.profile with
        ext := true, ticks := { (ticksFor 1000000) with endLo := 1 } } }, _, _,
    by decide, rfl, rfl, rfl, rfl, rfl, by decide, rfl, rfl, by decide⟩

/-! ### Errors -/

/-- Each error kind, from a state that meets the invariant: serves ErrorsEachCommandCanRaise, EveryCommandAnswersOnce
and StateAfterEachFailure. -/
theorem witness_failures :
    ((encAt 1000000 51 false false).Inv ∧
      encAnswer 0 (exec (.eCfg 0 0 false false) (encAt 1000000 51 false false)) =
        some (some (.fail .invalidArgument), 0, []) ∧
      encAnswer 0 (exec (.eBuild 0 0) (encAt 1000000 51 false false)) =
        some (some (.fail .protocolMismatch), 0, [])) ∧
    ((encAt 1000000 50 true false).Inv ∧
      encAnswer 0 (exec (.eBuild 0 0) (encAt 1000000 50 true false)) = some (some (.fail .bufferOverflow), 0, [])) ∧
    ((encFull 3 2 false).Inv ∧
      encAnswer 0 (exec .eEnd (encFull 3 2 false)) = some (some (.fail .bufferOverflow), 0, [])) ∧
    ((decWith 200 true s3).Inv ∧
      decAnswer (exec (.dInput 1 49) (decWith 200 true s3)) = some (.fail .lengthMismatch) ∧
      decAnswer (exec .dDecode (decWith 200 true s3)) = some (.fail .decodeFailure)) :=
  ⟨⟨inv_encAt 51 false false (by decide), by decide, by decide⟩, ⟨inv_encAt 50 true false (by decide), by decide⟩,
    ⟨inv_encFull_3_2, by decide⟩, ⟨inv_decWith true, by decide, by decide⟩⟩

/-- A full buffer meets the invariant, so E_HEAD, E_BIT and E_END can overflow on nothing written. -/
theorem witness_StateAfterEachFailure_full :
    ∃ s : State, s.Inv ∧ s.enc.cursor = s.enc.capacity ∧
      encAnswer 0 (exec .eHead s) = some (some (.fail .bufferOverflow), 0, []) ∧
      encAnswer 0 (exec (.eBit true) s) = some (some (.fail .bufferOverflow), 0, []) ∧
      encAnswer 0 (exec .eEnd s) = some (some (.fail .bufferOverflow), 0, []) := by
  refine ⟨encFull 1 1 false, ⟨⟨by decide, fun _ => ⟨by decide, by decide, by decide, ⟨1000000, by decide, rfl⟩,
    fun i w h => ?_, fun i h => ?_⟩⟩, decInv_reset, rfl, noScan_reset⟩, rfl, by decide, by decide, by decide⟩
  · by_contra hn
    have : cellRead (encFull 1 1 false).enc.txbuf i = none := if_neg (show i ≠ 0 from fun h0 => hn (h0 ▸ by decide))
    rw [this] at h
    cases h
  · have h1 : i < 1 := h
    obtain rfl : i = 0 := by omega
    exact ⟨_, rfl⟩

theorem witness_FailurePriority :
    (encAt 1000000 50 false false).enc.configured = true ∧ (encAt 1000000 50 false false).enc.profile.ext = false ∧
    redundant 0x1234 0xDEADBEEF = false ∧ (encAt 1000000 50 false false).enc.capacity.toNat < 51 ∧
    (decAt 200 false).dec.configured = true ∧ (51 : Count) ≠ 50 := by decide

/-! ### Laws and whole-machine rules -/

theorem witness_EncoderAndDecoderCommandsCommute :
    (∃ u, exec .eHead (bothAt 200 false false) = .next u) ∧
    (∃ v, exec (.dInput 1 50) (bothAt 200 false false) = .next v) ∧
    exec .eHead ((encAt 8000000 51 false false).withDec (decConstructed 1000000 200 false false)) =
      .refused .unrepresentable ∧
    (∃ v, exec (.dInput 1 50) ((encAt 8000000 51 false false).withDec (decConstructed 1000000 200 false false)) = .next v) :=
  ⟨⟨_, rfl⟩, ⟨_, rfl⟩, rfl, ⟨_, rfl⟩⟩
theorem witness_HandBuiltFrameEqualsBuild :
    (encAt 1000000 51 false false).enc.configured = true ∧
    representable (encAt 1000000 51 false false).enc.profile.ticks = true ∧
    51 ≤ (encAt 1000000 51 false false).enc.capacity.toNat ∧ redundant 0xB24D 0xBF4000FF = true := by decide
theorem witness_RoundTripThroughLoopback (ext inv : Bool) :
    (bothAt 200 ext inv).enc.configured = true ∧ (bothAt 200 ext inv).dec.configured = true ∧
    (1000000 : BitVec 32).toNat ≤ 5957818 ∧ (bothAt 200 ext inv).enc.profile.ticks = ticksFor 1000000 ∧
    (bothAt 200 ext inv).dec.profile.ticks = ticksFor 1000000 ∧
    (bothAt 200 ext inv).enc.profile.inverted = (bothAt 200 ext inv).dec.profile.inverted ∧
    51 ≤ (bothAt 200 ext inv).enc.capacity.toNat ∧ (bothAt 200 ext inv).dec.profile.margin ≠ 0 ∧
    Distinguishable (bothAt 200 ext inv).dec.profile ∧ redundant 0xB24D 0xBF4000FF = true ∧
    (bothAt 200 true inv).enc.profile.ext = true ∧ (1 : Handle) ≠ 0 :=
  ⟨rfl, rfl, by decide, rfl, rfl, rfl, Nat.le_refl 51, margin_200_ne_zero inv, distinguishable_margin_200 inv, by decide, rfl,
    by decide⟩

/-- Every duration of the loopback 199 ticks longer, one less than the margin. -/
def jittered : List Entry :=
  (loopback (frameWords (encConstructed 1000000 51 false false).profile 0xB24D 0xBF4000FF)).map (· + 0x00C700C7#32)

theorem witness_JitterWithinTheMarginDecodes :
    (decWith 200 false jittered).dec.configured = true ∧ (decWith 200 false jittered).dec.ref ≠ 0 ∧
    (encConstructed 1000000 51 false false).profile.inverted = (decWith 200 false jittered).dec.profile.inverted ∧
    (decWith 200 false jittered).dec.profile.margin ≠ 0 ∧ Distinguishable (decWith 200 false jittered).dec.profile ∧
    jittered.length = 50 ∧ rxEntries (decWith 200 false jittered).rxseq 1 = jittered ∧
    (∀ i < 50, ∀ w v,
      (loopback (frameWords (encConstructed 1000000 51 false false).profile 0xB24D 0xBF4000FF))[i]? = some w →
      jittered[i]? = some v →
      level1 v = level1 w ∧ level2 v = level2 w ∧
      |((dur1 v).toNat : Int) - (dur1 w).toNat| ≤ ((decWith 200 false jittered).dec.profile.margin.toNat : Int) - 1 ∧
      |((dur2 v).toNat : Int) - (dur2 w).toNat| ≤ ((decWith 200 false jittered).dec.profile.margin.toNat : Int) - 1) := by
  refine ⟨rfl, by decide, rfl, margin_200_ne_zero false, distinguishable_margin_200 false, by decide, by rfl,
    fun i _ w v hw hv => ?_⟩
  have key : ∀ u ∈ s3, level1 (u + 0x00C700C7#32) = level1 u ∧ level2 (u + 0x00C700C7#32) = level2 u ∧
      (dur1 (u + 0x00C700C7#32)).toNat = (dur1 u).toNat + 199 ∧
      (dur2 (u + 0x00C700C7#32)).toNat = (dur2 u).toNat + 199 := by
    intro u hu
    simp only [s3, words, List.mem_cons, List.mem_append, List.mem_map, List.not_mem_nil, or_false] at hu
    rcases hu with rfl | ⟨b, _, rfl⟩ | rfl
    · decide
    · split <;> decide
    · decide
  obtain ⟨h1, h2, h3, h4⟩ := key w (test_loopback ▸ List.mem_of_getElem? hw)
  rw [jittered, List.getElem?_map, hw] at hv
  obtain rfl : w + 0x00C700C7#32 = v := by simpa using hv
  have hm : (decWith 200 false jittered).dec.profile.margin.toNat = 200 := by rfl
  refine ⟨h1, h2, ?_, ?_⟩ <;> rw [hm] <;> simp [h3, h4]

theorem witness_OtherPolarityFailsTheDecode :
    (decWith 200 true s3).dec.configured = true ∧ (decWith 200 true s3).dec.ref ≠ 0 ∧
    (encConstructed 1000000 51 false false).profile.inverted ≠ (decWith 200 true s3).dec.profile.inverted ∧
    rxEntries (decWith 200 true s3).rxseq (decWith 200 true s3).dec.ref =
      loopback (frameWords (encConstructed 1000000 51 false false).profile 0xB24D 0xBF4000FF) := by decide

/-- The built frame less its terminator, under handle 1. -/
def unadapted : List Entry :=
  (frameWords (encConstructed 1000000 51 false false).profile 0xB24D 0xBF4000FF).take 50

theorem witness_RoundTripFailsWithoutLoopback :
    (decWith 200 false unadapted).dec.configured = true ∧ (decWith 200 false unadapted).dec.profile.margin ≠ 0 ∧
    (decWith 200 false unadapted).dec.profile.ticks = ticksFor 1000000 ∧
    Distinguishable (decWith 200 false unadapted).dec.profile ∧
    rxEntries (decWith 200 false unadapted).rxseq 1 = unadapted :=
  ⟨rfl, margin_200_ne_zero false, rfl, distinguishable_margin_200 false, by rfl⟩
theorem witness_FrameDuration :
    representable (encConstructed 5957818 51 false false).profile.ticks = true ∧ redundant 0xB24D 0xBF4000FF = true := by
  decide
theorem witness_StepsRunTheIssuedActionsInOrder :
    State.reset.pending = [] ∧
    ∃ t, actAll [.command 0x0000003300000001, .rxPlace 1 [7], .command 0x4000000000000000, .txRead 1, .rxFree 1]
      State.reset = .next t ∧ t.txOut = some 0 := ⟨rfl, _, rfl, rfl⟩
theorem witness_StepKeepsTheInvariant :
    (encFull 3 2 false).Inv ∧ (∃ t, step ((encFull 3 2 false).withFetchWord 64 0x4000000000000000) = .next t) ∧
    (decWith 200 true s3).Inv ∧ (∃ t, step ((decWith 200 true s3).withFetchWord 64 0xA000000000000000) = .next t) :=
  ⟨inv_encFull_3_2, ⟨_, rfl⟩, inv_decWith true, ⟨_, rfl⟩⟩
/-- A read of the last entry written, between two emits. -/
theorem witness_ReadsOfTxbufAreNotObserved :
    ∃ t u, actAll [.command 0x2000000000000000] (encAt 1000000 64 false false) = .next t ∧
      runAction (.txRead 0) t = .next u ∧ t.txOut ≠ u.txOut := ⟨_, _, rfl, rfl, by decide⟩

/-- DEC at 500 kHz with margin 283, holding the loopback of a frame built at that clock. -/
def decAt500k : State :=
  (State.reset.withDec ((decConstructed 500000 566 false false).withInput 1 50)).withRxseq
    [(1, loopback (frameWords (encConstructed 500000 51 false false).profile 0xB24D 0xBF4000FF))]

/-- Moved to the margin: the head, a one and the end fail, their windows being apart, and at 500 kHz a zero reads as a
one. Moved to margin - 1: a zero, with Distinguishable. -/
theorem witness_MovedDurationAtTheWindowsEdge :
    (∃ u, exec .dDecode (decWith 200 false s3) = .next u ∧ u.decRsp = some (.ok (.scan ⟨0xB24D, 0xBF4000FF, false⟩))) ∧
    (rxEntries (decWith 200 false s3).rxseq 1)[0]? = some 0x119490B8 ∧
    MovedFromTarget 200 (targetsAt (decAt 200 false).dec.profile (dataOf 0xB24D 0xBF4000FF) 0) 0x119490B8 0x11949180 ∧
    (rxEntries (decWith 200 false s3).rxseq 1)[1]? = some 0x069A8230 ∧
    MovedFromTarget 200 (targetsAt (decAt 200 false).dec.profile (dataOf 0xB24D 0xBF4000FF) 1) 0x069A8230 0x05D28230 ∧
    matchesOtherBit (decAt 200 false).dec.profile (dataOf 0xB24D 0xBF4000FF) 1 0x05D28230 = false ∧
    2 * (decAt 200 false).dec.profile.margin.toNat + (ticksFor 1000000).l0Lo.toNat ≤ (ticksFor 1000000).l1Lo.toNat ∧
    (rxEntries (decWith 200 false s3).rxseq 1)[49]? = some 0x00008230 ∧
    MovedFromTarget 200 (targetsAt (decAt 200 false).dec.profile (dataOf 0xB24D 0xBF4000FF) 49) 0x00008230 0x00C88230 ∧
    (∃ u, exec .dDecode decAt500k = .next u ∧ u.decRsp = some (.ok (.scan ⟨0xB24D, 0xBF4000FF, false⟩))) ∧
    (rxEntries decAt500k.rxseq 1)[2]? = some 0x01188118 ∧
    MovedFromTarget 283 (targetsAt decAt500k.dec.profile (dataOf 0xB24D 0xBF4000FF) 2) 0x01188118 0x02338118 ∧
    matchesOtherBit decAt500k.dec.profile (dataOf 0xB24D 0xBF4000FF) 2 0x02338118 = true ∧
    MovedFromTarget (200 - 1) (targetsAt (decAt 200 false).dec.profile (dataOf 0xB24D 0xBF4000FF) 2) 0x02308230
      0x02F78230 ∧
    Distinguishable (decWith 200 false s3).dec.profile :=
  ⟨⟨_, rfl, by decide⟩, by decide, ⟨by decide, by decide, .inl ⟨by decide, by decide⟩⟩, by decide,
    ⟨by decide, by decide, .inr ⟨by decide, by decide⟩⟩, by decide, by decide, by decide,
    ⟨by decide, by decide, .inr ⟨by decide, by decide⟩⟩, ⟨_, rfl, by decide⟩, by decide,
    ⟨by decide, by decide, .inr ⟨by decide, by decide⟩⟩, by decide,
    ⟨by decide, by decide, .inr ⟨by decide, by decide⟩⟩, distinguishable_margin_200 false⟩

end Sys2Proof.Tests
end

section
/-! SUPPORT. The configured bits (spec/10_state.md rule R29): what each command, each host action and each step does to
them. -/

namespace Sys2Proof.Machine

variable {s t : State}

/-! ## The state operations other than withEnc and withDec leave both bits alone -/

@[simp] theorem State.configured_respond (s : State) (b c : SubBlock) (r : Response) :
    (s.respond b r).configured c = s.configured c := by cases b <;> cases c <;> rfl
@[simp] theorem State.configured_withRxseq (s : State) (m : Cells (List Entry)) (b : SubBlock) :
    (s.withRxseq m).configured b = s.configured b := by cases b <;> rfl
@[simp] theorem State.configured_withTxOut (s : State) (w : Entry) (b : SubBlock) :
    (s.withTxOut w).configured b = s.configured b := by cases b <;> rfl
@[simp] theorem State.configured_withPending (s : State) (as : List HostAction) (b : SubBlock) :
    (s.withPending as).configured b = s.configured b := by cases b <;> rfl
@[simp] theorem State.configured_nextDraw (s : State) (b : SubBlock) :
    s.nextDraw.configured b = s.configured b := by cases b <;> rfl

/-- Replacing ENC by one with the same configured bit. -/
theorem State.configured_withEnc {e : Enc} (h : e.configured = s.enc.configured) (b : SubBlock) :
    (s.withEnc e).configured b = s.configured b := by
  cases b with
  | enc => exact h
  | dec => rfl

/-- Replacing DEC by one with the same configured bit. -/
theorem State.configured_withDec {d : Dec} (h : d.configured = s.dec.configured) (b : SubBlock) :
    (s.withDec d).configured b = s.configured b := by
  cases b with
  | enc => rfl
  | dec => exact h

@[simp] theorem State.respond_enc (s : State) (b : SubBlock) (r : Response) : (s.respond b r).enc = s.enc := by
  cases b <;> rfl
@[simp] theorem State.respond_dec (s : State) (b : SubBlock) (r : Response) : (s.respond b r).dec = s.dec := by
  cases b <;> rfl

/-! ## Commands -/

/-- A command that ends by delivering an error leaves both bits alone. -/
theorem raiseError_keeps_configured {b : SubBlock} {e : ErrorKind} (h : raiseError b e s = .next t) (c : SubBlock) :
    t.configured c = s.configured c := by
  cases h; exact s.configured_respond b c _

/-- A command that ends with OK leaves both bits alone. -/
theorem returnOk_keeps_configured {b : SubBlock} {d : ResponseData} (h : returnOk b d s = .next t) (c : SubBlock) :
    t.configured c = s.configured c := by
  cases h; exact s.configured_respond b c _

/-- A command behind its guard leaves both bits alone when what it does past the guard does. -/
theorem guarded_keeps_configured {c : Prop} [Decidable c] {x : Host.Outcome State Fault Refusal} {b : SubBlock}
    {e : ErrorKind} (hx : x = .next t → ∀ b, t.configured b = s.configured b)
    (h : (if c then x else raiseError b e s) = .next t) (b : SubBlock) : t.configured b = s.configured b := by
  split at h
  · exact hx h b
  · exact raiseError_keeps_configured h b

/-- The tail of every emitting command leaves both bits alone, appended or overflowed. -/
theorem emit_keeps_configured {ws : List Entry} (h : emit ws s = .next t) (b : SubBlock) :
    t.configured b = s.configured b := by
  have keeps := appendAll_keeps ws s.enc
  obtain ⟨-, he⟩ | ⟨-, e, ha, he⟩ | ⟨-, e, ha, he⟩ := emit_cases ws s
  · cases he.symm.trans h
  all_goals
    cases he.symm.trans h
    rw [ha] at keeps
    rw [State.configured_respond, State.configured_withEnc keeps.1]

/-- The guard of R120, R150 and R203: on an unconfigured sub-block every command of it but the configuration command
delivers InvalidArgument and does nothing else. -/
theorem exec_of_unconfigured {i : Instr} (hi : i.isConfig = false) (hs : s.configured i.block = false) :
    exec i s = raiseError i.block .invalidArgument s := by
  cases i with
  | eCfg | dCfg => cases hi
  | eReset | eHead | eBit | eEnd | eBuild | eResult | dInput | dDecode => exact if_neg (ne_true_of_eq_false hs)

/-- A configuration command either delivers InvalidArgument and does nothing else, or answers OK, sets its own
sub-block's bit and leaves the other's alone (R104 to R108). -/
theorem exec_config_cases {i : Instr} (hi : i.isConfig = true) (h : exec i s = .next t) :
    t = s.respond i.block (.fail .invalidArgument) ∨
    (t.response i.block = some (.ok .empty) ∧ t.configured i.block = true ∧
      ∀ b, b ≠ i.block → t.configured b = s.configured b) := by
  cases i with
  | eReset | eHead | eBit | eEnd | eBuild | eResult | dInput | dDecode => cases hi
  | eCfg clkHz cap ext inv =>
    simp only [exec, execECfg] at h
    split at h <;> cases h
    · exact .inl rfl
    · refine .inr ⟨rfl, rfl, fun b hb => ?_⟩
      cases b with
      | enc => exact absurd rfl hb
      | dec => rfl
  | dCfg clkHz marginUs ext inv =>
    simp only [exec, execDCfg] at h
    split at h <;> cases h
    · exact .inl rfl
    · refine .inr ⟨rfl, rfl, fun b hb => ?_⟩
      cases b with
      | enc => rfl
      | dec => exact absurd rfl hb

/-- E_RESET leaves both bits alone: it moves the cursor. -/
theorem execEReset_keeps_configured (h : execEReset s = .next t) (b : SubBlock) :
    t.configured b = s.configured b := by
  refine guarded_keeps_configured (fun hok c => ?_) h b
  exact (returnOk_keeps_configured hok c).trans (State.configured_withEnc rfl c)

/-- E_BUILD leaves both bits alone: it moves the cursor, then fails its validation or emits the frame. -/
theorem execEBuild_keeps_configured {address : Address} {command : Command} (h : execEBuild address command s = .next t)
    (b : SubBlock) : t.configured b = s.configured b := by
  refine guarded_keeps_configured (fun hbuild c => ?_) h b
  have started : (s.withEnc (s.enc.withCursor 0)).configured c = s.configured c := State.configured_withEnc rfl c
  split at hbuild
  · rw [raiseError_keeps_configured hbuild, started]
  · rw [emit_keeps_configured hbuild, started]

/-- D_INPUT leaves both bits alone: it stores or clears the reference. -/
theorem execDInput_keeps_configured {ref : Handle} {length : Count} (h : execDInput ref length s = .next t)
    (b : SubBlock) : t.configured b = s.configured b := by
  refine guarded_keeps_configured (fun hinput c => ?_) h b
  split at hinput
  · exact raiseError_keeps_configured hinput c
  · split at hinput
    · exact (returnOk_keeps_configured hinput c).trans (State.configured_withDec rfl c)
    · exact (raiseError_keeps_configured hinput c).trans (State.configured_withDec rfl c)

/-- D_DECODE leaves both bits alone: it draws free words and stores the last code. -/
theorem execDDecode_keeps_configured (h : execDDecode s = .next t) (b : SubBlock) :
    t.configured b = s.configured b := by
  refine guarded_keeps_configured (fun hdecode c => ?_) h b
  split at hdecode
  · exact raiseError_keeps_configured hdecode c
  · split at hdecode
    · rw [raiseError_keeps_configured hdecode, State.configured_nextDraw]
    · have stored := (returnOk_keeps_configured hdecode c).trans (State.configured_withDec rfl c)
      rw [stored, State.configured_nextDraw]

/-- Only the configuration commands touch a configured bit: every other command leaves both as they are. -/
theorem exec_keeps_configured_of_not_config {i : Instr} (hi : i.isConfig = false) (h : exec i s = .next t)
    (b : SubBlock) : t.configured b = s.configured b := by
  cases i with
  | eCfg | dCfg => cases hi
  | eReset => exact execEReset_keeps_configured h b
  | eHead | eBit | eEnd => exact guarded_keeps_configured emit_keeps_configured h b
  | eBuild => exact execEBuild_keeps_configured h b
  | eResult => exact guarded_keeps_configured returnOk_keeps_configured h b
  | dInput => exact execDInput_keeps_configured h b
  | dDecode => exact execDDecode_keeps_configured h b

/-- No command clears a configured bit. -/
theorem exec_never_clears_configured {i : Instr} (h : exec i s = .next t) {b : SubBlock} (hb : s.configured b = true) :
    t.configured b = true := by
  cases hi : i.isConfig with
  | false => rw [exec_keeps_configured_of_not_config hi h, hb]
  | true =>
    obtain rfl | ⟨-, hset, hother⟩ := exec_config_cases hi h
    · rw [State.configured_respond, hb]
    · by_cases hib : b = i.block
      · rw [hib, hset]
      · rw [hother b hib, hb]

/-! ## Host actions and steps -/

/-- A command word runs its command, or is illegal and is answered InvalidArgument (R85). -/
theorem runCommand_cases {cw : CommandWord} (h : runCommand cw s = .next t) :
    (∃ i, decode cw = .ok i ∧ exec i s = .next t) ∨
    ((∃ e, decode cw = .error e) ∧ t = s.respond (routeOf cw) (.fail .invalidArgument)) := by
  unfold runCommand at h
  cases hd : decode cw with
  | ok i => rw [hd] at h; exact .inl ⟨i, rfl, h⟩
  | error e => rw [hd] at h; cases h; exact .inr ⟨⟨e, rfl⟩, rfl⟩

/-- Placing a sequence changes RXSEQ alone. -/
theorem runRxPlace_next {handle : Handle} {ws : List Entry} (h : runRxPlace handle ws s = .next t) :
    ∃ m, t = s.withRxseq m := by
  unfold runRxPlace at h
  split at h
  · cases h
  · split at h <;> cases h <;> exact ⟨_, rfl⟩

/-- Freeing a sequence changes RXSEQ alone. -/
theorem runRxFree_next {handle : Handle} (h : runRxFree handle s = .next t) : ∃ m, t = s.withRxseq m := by
  unfold runRxFree at h
  split at h <;> cases h
  exact ⟨_, rfl⟩

/-- A read of TXBUF that does not fault changes the read port alone. -/
theorem runTxRead_next {index : Nat} (h : runTxRead index s = .next t) : ∃ w, t = s.withTxOut w := by
  unfold runTxRead at h
  split at h
  · split at h
    · split at h <;> cases h
      exact ⟨_, rfl⟩
    · cases h
  · cases h

/-- No host action clears a configured bit. -/
theorem runAction_never_clears_configured {a : HostAction} (h : runAction a s = .next t) {b : SubBlock}
    (hb : s.configured b = true) : t.configured b = true := by
  cases a with
  | command cw =>
    obtain ⟨i, -, hx⟩ | ⟨-, rfl⟩ := runCommand_cases h
    · exact exec_never_clears_configured hx hb
    · rw [State.configured_respond, hb]
  | rxPlace handle ws =>
    obtain ⟨m, rfl⟩ := runRxPlace_next h
    rw [State.configured_withRxseq, hb]
  | rxFree handle =>
    obtain ⟨m, rfl⟩ := runRxFree_next h
    rw [State.configured_withRxseq, hb]
  | txRead index =>
    obtain ⟨w, rfl⟩ := runTxRead_next h
    rw [State.configured_withTxOut, hb]

/-- A step idles with nothing issued, or does the oldest action issued. -/
theorem step_cases (h : step s = .next t) :
    (s.pending = [] ∧ t = s) ∨
    (∃ a rest, s.pending = a :: rest ∧ runAction a (s.withPending rest) = .next t) := by
  unfold step takeNext at h
  cases hp : s.pending with
  | nil => rw [hp] at h; cases h; exact .inl ⟨rfl, rfl⟩
  | cons a rest => rw [hp] at h; exact .inr ⟨a, rest, rfl, h⟩

/-- No step clears a configured bit. -/
theorem step_never_clears_configured (h : step s = .next t) {b : SubBlock} (hb : s.configured b = true) :
    t.configured b = true := by
  obtain ⟨-, rfl⟩ | ⟨a, rest, -, ha⟩ := step_cases h
  · exact hb
  · exact runAction_never_clears_configured ha (by rw [State.configured_withPending, hb])

/-- Both sub-blocks are unconfigured at reset (R230). -/
theorem configured_reset (b : SubBlock) : State.reset.configured b = false := by cases b <;> rfl

/-- A configuration command answered OK has set its sub-block's bit: a rejected one is answered InvalidArgument. -/
theorem configured_of_config_ok {i : Instr} (hi : i.isConfig = true) (h : exec i s = .next t)
    (hr : t.response i.block = some (.ok .empty)) : t.configured i.block = true := by
  obtain rfl | ⟨-, hset, -⟩ := exec_config_cases hi h
  · rw [State.response_respond, if_pos rfl] at hr
    cases hr
  · exact hset

/-- Settles O14: the bits are 0 at reset, a configuration command either rejects or sets its bit, no step clears one, and
the guard of an unconfigured sub-block delivers InvalidArgument. -/
theorem configuredIsSetByConfigurationAndNeverCleared :
    Obligations.ConfiguredIsSetByConfigurationAndNeverCleared := by
  refine ⟨configured_reset, fun _ _ _ => configured_of_config_ok, fun _ _ _ h => step_never_clears_configured h, ?_⟩
  intro i s hi hs
  refine ⟨_, exec_of_unconfigured hi hs, s.respond_enc _ _, s.respond_dec _ _, ?_⟩
  rw [State.response_respond, if_pos rfl]

end Sys2Proof.Machine
end

section
/-! SUPPORT. Encodings (spec/30_encoding.md): what a decoded command takes from its word, the entry word and the response
word as numbers, the frame's entries by index. -/

namespace Sys2Proof

/-! ## Decoding (R79) -/

/-- The operands of a command are the fields of `cw` that its format's row in R79 gives, and the payload bits the format
does not use are 0 there. -/
def Instr.ReadFrom (cw : CommandWord) : Instr → Prop
  | .eCfg clkHz cap ext inv =>
    clkHz = cw.extractLsb' 0 32 ∧ cap = cw.extractLsb' 32 16 ∧ ext = cw.getLsbD 48 ∧ inv = cw.getLsbD 49 ∧
      cw.extractLsb' 50 10 = 0
  | .dCfg clkHz marginUs ext inv =>
    clkHz = cw.extractLsb' 0 32 ∧ marginUs = cw.extractLsb' 32 16 ∧ ext = cw.getLsbD 48 ∧ inv = cw.getLsbD 49 ∧
      cw.extractLsb' 50 10 = 0
  | .eBit value => value = cw.getLsbD 0 ∧ cw.extractLsb' 1 59 = 0
  | .eBuild address command =>
    address = cw.extractLsb' 0 16 ∧ command = cw.extractLsb' 16 32 ∧ cw.extractLsb' 48 12 = 0
  | .dInput ref length => length = cw.extractLsb' 0 16 ∧ ref = cw.extractLsb' 16 16 ∧ cw.extractLsb' 32 28 = 0
  | .eReset | .eHead | .eEnd | .eResult | .dDecode => cw.extractLsb' 0 60 = 0

/-- Every format answers one command, behind its must-be-zero check. -/
theorem zeros_of_format_ok {lo : Nat} {cw : CommandWord} {x i : Instr} {e : DecodeError}
    (h : (if zeroFrom lo cw then Except.ok x else .error e) = Except.ok i) :
    cw.extractLsb' lo (60 - lo) = 0 ∧ x = i := by
  split at h
  case isTrue hz => cases h; exact ⟨eq_of_beq hz, rfl⟩
  case isFalse => cases h

/-- Format N reads nothing: its command is the opcode's own. -/
theorem decodeN_ok {cw : CommandWord} {x i : Instr} (h : decodeN x cw = .ok i) : cw.extractLsb' 0 60 = 0 ∧ x = i :=
  zeros_of_format_ok h

/-- A word that decodes holds its command's operands, whichever of the ten opcodes it has: in the order of R80's table,
each format's fields behind its check. -/
theorem decode_readFrom {cw : CommandWord} {i : Instr} (h : decode cw = .ok i) : i.ReadFrom cw := by
  unfold decode at h
  split at h
  · obtain ⟨hz, rfl⟩ := zeros_of_format_ok h; exact ⟨rfl, rfl, rfl, rfl, hz⟩
  · obtain ⟨hz, rfl⟩ := decodeN_ok h; exact hz
  · obtain ⟨hz, rfl⟩ := decodeN_ok h; exact hz
  · obtain ⟨hz, rfl⟩ := zeros_of_format_ok h; exact ⟨rfl, hz⟩
  · obtain ⟨hz, rfl⟩ := decodeN_ok h; exact hz
  · obtain ⟨hz, rfl⟩ := zeros_of_format_ok h; exact ⟨rfl, rfl, hz⟩
  · obtain ⟨hz, rfl⟩ := decodeN_ok h; exact hz
  · obtain ⟨hz, rfl⟩ := zeros_of_format_ok h; exact ⟨rfl, rfl, rfl, rfl, hz⟩
  · obtain ⟨hz, rfl⟩ := zeros_of_format_ok h; exact ⟨rfl, rfl, hz⟩
  · obtain ⟨hz, rfl⟩ := decodeN_ok h; exact hz
  · cases h

/-- Settles O4: each clause is `decode_readFrom` at the constructor it speaks of. -/
theorem formatsReadTheirFields : Obligations.FormatsReadTheirFields := by
  refine fun cw => ⟨fun _ _ _ _ => decode_readFrom, fun _ _ _ _ => decode_readFrom, fun _ => decode_readFrom,
    fun _ _ => decode_readFrom, fun _ _ => decode_readFrom, ?_⟩
  rintro i (rfl | rfl | rfl | rfl | rfl) <;> exact decode_readFrom

end Sys2Proof

namespace Sys2Proof.Machine

/-! ## The entry word (R70, R73) -/

/-- A word is the sum of its four fields, each at its place. -/
theorem entry_toNat (w : Entry) :
    w.toNat = (level2 w).toNat * 2 ^ 31 + (dur2 w).toNat * 2 ^ 16 + (level1 w).toNat * 2 ^ 15 + (dur1 w).toNat := by
  have hw := w.isLt
  simp only [level1, level2, dur1, dur2, BitVec.extractLsb'_toNat, BitVec.getLsbD, Nat.toNat_testBit,
    Nat.shiftRight_eq_div_pow]
  omega

/-- So two words with the same fields are the same word. -/
theorem entry_ext {v w : Entry} (hl1 : level1 v = level1 w) (hd1 : dur1 v = dur1 w) (hl2 : level2 v = level2 w)
    (hd2 : dur2 v = dur2 w) : v = w := by
  apply BitVec.eq_of_toNat_eq
  rw [entry_toNat v, entry_toNat w, hl1, hd1, hl2, hd2]

/-- Entry of a word's fields gives the word back. -/
@[simp] theorem entryOf_fields (w : Entry) : entryOf (level1 w) (dur1 w) (level2 w) (dur2 w) = w :=
  entry_ext (level1_entryOf ..) (dur1_entryOf ..) (level2_entryOf ..) (dur2_entryOf ..)

/-- R73's formula, over the integers. -/
theorem entryOf_toNat (l1 l2 : Bool) (d1 d2 : Duration) :
    (entryOf l1 d1 l2 d2).toNat = l2.toNat * 2 ^ 31 + d2.toNat * 2 ^ 16 + l1.toNat * 2 ^ 15 + d1.toNat := by
  rw [entry_toNat, level1_entryOf, dur1_entryOf, level2_entryOf, dur2_entryOf]

/-- Settles O7: a word is the sum of its fields, so the accessors, which undo Entry, are its inverse. -/
theorem entryWordFields : Obligations.EntryWordFields :=
  ⟨fun l1 d1 l2 d2 => ⟨entryOf_toNat l1 l2 d1 d2, level1_entryOf .., dur1_entryOf .., level2_entryOf .., dur2_entryOf ..⟩,
    fun w => ⟨entryOf_fields w, rfl, rfl, rfl, rfl⟩⟩

/-! ## The response word (R82 to R84) -/

/-- A successful response's word is its data: the status bits add nothing. -/
theorem responseWord_ok_toNat (d : ResponseData) : (responseWord (.ok d)).toNat = (responseData d).toNat :=
  BitVec.toNat_setWidth_of_le (by decide)

/-- A failed response's word is its status in bits 63:60, with zero data. -/
theorem responseWord_fail_toNat (e : ErrorKind) : (responseWord (.fail e)).toNat = (statusOf e).toNat * 2 ^ 60 := by
  cases e <;> rfl

/-- R83's numbering ends at 5. -/
theorem statusOf_le (e : ErrorKind) : (statusOf e).toNat ≤ 5 := by cases e <;> decide

/-- Every response word is below status 6. -/
theorem responseWord_lt (r : Response) : (responseWord r).toNat < 6 * 2 ^ 60 := by
  cases r with
  | ok d =>
    have hd := (responseData d).isLt
    rw [responseWord_ok_toNat]
    omega
  | fail e =>
    have he := statusOf_le e
    rw [responseWord_fail_toNat]
    omega

/-- The status of a successful response is 0. -/
theorem responseWord_ok_status (d : ResponseData) : (responseWord (.ok d)).extractLsb' 60 4 = 0 := by
  apply BitVec.eq_of_toNat_eq
  rw [BitVec.extractLsb'_toNat, responseWord_ok_toNat, Nat.shiftRight_eq_div_pow,
    Nat.div_eq_of_lt (responseData d).isLt]
  rfl

/-- A field placed at bit `k` above a value of `k` bits, with no bit lost at the top: the two add up. -/
theorem toNat_shiftLeft_or {w k : Nat} {field low : BitVec w} (hlow : low.toNat < 2 ^ k)
    (hfield : field.toNat * 2 ^ k < 2 ^ w) : (field <<< k ||| low).toNat = field.toNat * 2 ^ k + low.toNat := by
  rw [BitVec.toNat_or, BitVec.toNat_shiftLeft, Nat.shiftLeft_eq, Nat.mod_eq_of_lt hfield, ← Nat.shiftLeft_eq,
    Nat.shiftLeft_add_eq_or_of_lt hlow]

/-- The scan code's fields stand side by side: address below command below `repeat`. -/
theorem responseData_scan_toNat (code : ScanCode) :
    (responseData (.scan code)).toNat =
      code.isRepeat.toNat * 2 ^ 48 + code.command.toNat * 2 ^ 16 + code.address.toNat := by
  have ha : (code.address.setWidth 60).toNat = code.address.toNat := BitVec.toNat_setWidth_of_le (by decide)
  have hc : (code.command.setWidth 60).toNat = code.command.toNat := BitVec.toNat_setWidth_of_le (by decide)
  have hr : ((BitVec.ofBool code.isRepeat).setWidth 60).toNat = code.isRepeat.toNat := by
    rw [BitVec.toNat_setWidth_of_le (by decide), BitVec.toNat_ofBool]
  have ha16 := code.address.isLt
  have hc32 := code.command.isLt
  have hr1 := code.isRepeat.toNat_lt
  have hlow : (code.command.setWidth 60 <<< 16 ||| code.address.setWidth 60).toNat =
      code.command.toNat * 2 ^ 16 + code.address.toNat := by
    rw [toNat_shiftLeft_or (by omega) (by omega), ha, hc]
  rw [responseData, BitVec.or_assoc, toNat_shiftLeft_or (by omega) (by omega), hr, hlow, Nat.add_assoc]

/-- Settles O8: success is the data alone, failure the status alone, and R83's numbers end at 5. -/
theorem responseWordFields : Obligations.ResponseWordFields := by
  refine ⟨rfl, responseWord_ok_status, responseWord_lt, fun n => ?_, fun code => ?_, rfl, rfl, rfl, rfl, rfl⟩
  · rw [responseWord_ok_toNat]
    exact BitVec.toNat_setWidth_of_le (by decide)
  · rw [responseWord_ok_toNat, responseData_scan_toNat]

/-! ## The frame (R75) -/

/-- Address bit `i` is at index 1 + i. -/
theorem getElem?_frameWords_address (p : TimingProfile) (a : Address) (c : Command) {i : Nat} (h : i < 16) :
    (frameWords p a c)[1 + i]? = some (bitWord p (a.getLsbD i)) := by
  rw [frameWords, Nat.add_comm, List.getElem?_cons_succ, List.getElem?_append_left (by simpa using h),
    getElem?_bitWords p a h]

/-- What stands above the address bits: index 17 + j of the frame is index `j` after them. -/
theorem getElem?_frameWords_above (p : TimingProfile) (a : Address) (c : Command) (j : Nat) :
    (frameWords p a c)[17 + j]? = (bitWords p c 32 ++ [endWord p, terminator])[j]? := by
  rw [frameWords, show 17 + j = 16 + j + 1 by omega, List.getElem?_cons_succ, List.getElem?_append_right (by simp)]
  simp

/-- Command bit `j` is at index 17 + j. -/
theorem getElem?_frameWords_command (p : TimingProfile) (a : Address) (c : Command) {j : Nat} (h : j < 32) :
    (frameWords p a c)[17 + j]? = some (bitWord p (c.getLsbD j)) := by
  rw [getElem?_frameWords_above, List.getElem?_append_left (by simpa using h), getElem?_bitWords p c h]

/-- The end entry and the terminator are at indices 49 and 50. -/
theorem getElem?_frameWords_end (p : TimingProfile) (a : Address) (c : Command) :
    (frameWords p a c)[49]? = some (endWord p) ∧ (frameWords p a c)[50]? = some terminator := by
  have above := getElem?_frameWords_above p a c
  exact ⟨(above 32).trans (by simp), (above 33).trans (by simp)⟩

/-- The frame's list and the table by index agree. -/
theorem getElem?_frameWords (p : TimingProfile) (a : Address) (c : Command) {i : Nat} (h : i < 51) :
    (frameWords p a c)[i]? = some (frameEntryAt p a c i) := by
  obtain ⟨hend, hterm⟩ := getElem?_frameWords_end p a c
  unfold frameEntryAt
  split_ifs with h0 haddr hcmd h49
  · rw [h0]; rfl
  · obtain ⟨k, rfl⟩ := Nat.exists_eq_add_of_le (Nat.one_le_iff_ne_zero.2 h0)
    rw [getElem?_frameWords_address p a c (by omega), Nat.add_sub_cancel_left]
  · obtain ⟨k, rfl⟩ := Nat.exists_eq_add_of_le (not_lt.1 haddr)
    rw [getElem?_frameWords_command p a c (by omega), Nat.add_sub_cancel_left]
  · rw [h49, hend]
  · rw [show i = 50 by omega, hterm]

/-- Settles O24: the frame's regions one by one; the templates are R74's PairWord by definition. -/
theorem frameWordsAreTheTable : Obligations.FrameWordsAreTheTable := by
  intro p a c
  obtain ⟨hend, hterm⟩ := getElem?_frameWords_end p a c
  exact ⟨length_frameWords p a c, rfl, fun _ => getElem?_frameWords_address p a c,
    fun _ => getElem?_frameWords_command p a c, hend, hterm, rfl, rfl, fun _ => getElem?_frameWords p a c⟩

end Sys2Proof.Machine
end

section
/-! SUPPORT. The timing profile (spec/40_timing_profile.md): the conversion to ticks, the templates of a clock and the
clock ceiling, the two configuration commands. -/

namespace Sys2Proof.Machine

/-! ## The conversion to ticks (R101, R102) -/

/-- R102 a: monotone in both arguments, so a bound at the largest arguments bounds every tick value. -/
theorem ticksNat_le_ticksNat {us us' clkHz clkHz' : Nat} (hus : us ≤ us') (hclk : clkHz ≤ clkHz') :
    ticksNat us clkHz ≤ ticksNat us' clkHz' :=
  Nat.div_le_div_right (Nat.mul_le_mul hus hclk)

/-- R102 b: at 1 MHz a tick is a microsecond. -/
theorem ticksNat_one_megahertz (us : Nat) : ticksNat us 1000000 = us := Nat.mul_div_cancel us (by decide)

@[simp] theorem ticksNat_zero_left (clkHz : Nat) : ticksNat 0 clkHz = 0 := by
  rw [ticksNat, Nat.zero_mul, Nat.zero_div]

@[simp] theorem ticksNat_zero_right (us : Nat) : ticksNat us 0 = 0 := by rw [ticksNat, Nat.mul_zero, Nat.zero_div]

/-- A tick value is at most the one at the fastest clock a 32-bit operand can name. -/
theorem ticksNat_le_at_fastest_clock {us us' : Nat} (clkHz : BitVec 32) (h : us ≤ us') :
    ticksNat us clkHz.toNat ≤ ticksNat us' (2 ^ 32 - 1) :=
  ticksNat_le_ticksNat h (Nat.le_pred_of_lt clkHz.isLt)

/-- R102 d: no protocol constant is above 5500 microseconds, so every template is below 2^25. -/
theorem ticksNat_template_lt {us : Nat} (clkHz : BitVec 32) (h : us ≤ 5500) : ticksNat us clkHz.toNat < 2 ^ 25 :=
  (ticksNat_le_at_fastest_clock clkHz h).trans_lt (by decide)

/-- R102 e: a margin is a 16-bit number of microseconds, so it is below 2^29 in ticks. -/
theorem ticksNat_margin_lt {us : Nat} (clkHz : BitVec 32) (h : us < 2 ^ 16) : ticksNat us clkHz.toNat < 2 ^ 29 :=
  (ticksNat_le_at_fastest_clock clkHz (Nat.le_pred_of_lt h)).trans_lt (by decide)

/-- Settles O15: monotonicity carries the values at the fastest clock to every clock. -/
theorem tickConversionIsExact : Obligations.TickConversionIsExact :=
  ⟨fun _ _ => rfl, fun _ _ _ _ => ticksNat_le_ticksNat, ticksNat_one_megahertz, ticksNat_zero_left,
    ticksNat_zero_right, fun _ => ticksNat_template_lt,
    fun _ clkHz h => ⟨ticksNat_margin_lt clkHz h, ticksOf_toNat clkHz h⟩⟩

/-! ## The templates of a clock (R10, R103) -/

/-- The protocol constant, in microseconds, that a template converts (R10). -/
def templateUs : TickName → Nat
  | .leadHi => protocol.leadHiUs
  | .leadLo => protocol.leadLoUs
  | .l0Hi => protocol.l0HiUs
  | .l0Lo => protocol.l0LoUs
  | .l1Hi => protocol.l1HiUs
  | .l1Lo => protocol.l1LoUs
  | .endHi => protocol.endHiUs
  | .endLo => protocol.endLoUs

/-- The ending-low constant is the largest of the eight. -/
theorem templateUs_le (k : TickName) : templateUs k ≤ 5500 := by cases k <;> decide

/-- Each tick register a configuration computes holds its constant's exact conversion. -/
theorem tick_ticksFor_toNat (clkHz : BitVec 32) (k : TickName) :
    (tick (ticksFor clkHz) k).toNat = ticksNat (templateUs k) clkHz.toNat := by
  have hreg : tick (ticksFor clkHz) k = ticksOf (templateUs k) clkHz := by cases k <;> rfl
  rw [hreg]
  exact ticksOf_toNat clkHz ((templateUs_le k).trans_lt (by decide))

/-- The ending-low register is the largest of the eight. -/
theorem tick_ticksFor_le (clkHz : BitVec 32) (k : TickName) :
    (tick (ticksFor clkHz) k).toNat ≤ ticksNat 5500 clkHz.toNat := by
  rw [tick_ticksFor_toNat]
  exact ticksNat_le_ticksNat (templateUs_le k) (Nat.le_refl _)

/-- So it alone decides whether a clock's registers are representable (R103). -/
theorem representable_ticksFor_iff (clkHz : BitVec 32) :
    representable (ticksFor clkHz) = true ↔ ticksNat 5500 clkHz.toNat ≤ 32767 := by
  rw [representable_iff]
  refine ⟨fun h => ?_, fun h k => (tick_ticksFor_le clkHz k).trans h⟩
  have hend := h .endLo
  rwa [tick_ticksFor_toNat] at hend

/-- The clock ceiling of R103: 5500 microseconds fit an entry's duration up to 5,957,818 Hz. -/
theorem ticksNat_endLow_le_iff (clkHz : Nat) : ticksNat 5500 clkHz ≤ 32767 ↔ clkHz ≤ 5957818 := by
  rw [ticksNat, hzPerMegahertz]
  omega

/-! ## The configuration commands (R104 to R108) -/

/-- The row of E_CFG in R80's table has opcode 0. -/
theorem opcodeOf_encode_eCfg (clkHz : BitVec 32) (cap : Count) (ext inv : Bool) :
    opcodeOf (encode (.eCfg clkHz cap ext inv)) = 0x0 := by
  rw [(Laws.RowOpcode.eCfg clkHz cap ext inv).1, Instr.row]
  decide

/-- The row of D_CFG in R80's table has opcode 8. -/
theorem opcodeOf_encode_dCfg (clkHz : BitVec 32) (marginUs : BitVec 16) (ext inv : Bool) :
    opcodeOf (encode (.dCfg clkHz marginUs ext inv)) = 0x8 := by
  rw [(Laws.RowOpcode.dCfg clkHz marginUs ext inv).1, Instr.row]
  decide

section
variable {s : State} {clkHz : BitVec 32} {cap : Count} {marginUs : BitVec 16} {ext inv : Bool}

/-- E_CFG with a capacity and a clock replaces ENC whole and answers OK. -/
theorem exec_eCfg_ok (hcap : cap ≠ 0) (hclk : clkHz ≠ 0) : exec (.eCfg clkHz cap ext inv) s =
    .next ((s.withEnc (encConstructed clkHz cap ext inv)).respond .enc (.ok .empty)) :=
  if_neg (not_or.2 ⟨hcap, hclk⟩)

/-- E_CFG without a capacity or a clock answers InvalidArgument and does nothing else. -/
theorem exec_eCfg_rejected (h : cap = 0 ∨ clkHz = 0) :
    exec (.eCfg clkHz cap ext inv) s = .next (s.respond .enc (.fail .invalidArgument)) :=
  if_pos h

/-- D_CFG with a clock replaces DEC whole and answers OK. -/
theorem exec_dCfg_ok (hclk : clkHz ≠ 0) : exec (.dCfg clkHz marginUs ext inv) s =
    .next ((s.withDec (decConstructed clkHz marginUs ext inv)).respond .dec (.ok .empty)) :=
  if_neg hclk

/-- D_CFG without a clock answers InvalidArgument and does nothing else. -/
theorem exec_dCfg_rejected (hclk : clkHz = 0) :
    exec (.dCfg clkHz marginUs ext inv) s = .next (s.respond .dec (.fail .invalidArgument)) :=
  if_pos hclk

end

/-- Settles O16: the command rejects or replaces ENC, and `encConstructed` unfolds to the registers written out with
R10's constants. -/
theorem encoderConfiguration : Obligations.EncoderConfiguration := fun _ clkHz cap ext inv =>
  ⟨opcodeOf_encode_eCfg clkHz cap ext inv, exec_eCfg_ok, exec_eCfg_rejected⟩

/-- Settles O17: the command rejects or replaces DEC, and `decConstructed` unfolds to the registers written out with
R10's constants. -/
theorem decoderConfiguration : Obligations.DecoderConfiguration := fun _ clkHz marginUs ext inv =>
  ⟨opcodeOf_encode_dCfg clkHz marginUs ext inv, exec_dCfg_ok, exec_dCfg_rejected⟩

/-- Settles O18: the ending-low register decides, it passes 32767 between two neighbouring clocks, and a
configuration command looks at the clock only to tell it from 0. -/
theorem representableUpToTheClockCeiling : Obligations.RepresentableUpToTheClockCeiling := by
  refine ⟨representable_iff, fun clkHz => ⟨representable_ticksFor_iff clkHz, ?_, tick_ticksFor_le clkHz⟩,
    ⟨by decide, by decide⟩, fun s clkHz cap ext inv hcap hclk => ?_, fun s clkHz marginUs ext inv hclk => ?_⟩
  · exact (representable_ticksFor_iff clkHz).trans (ticksNat_endLow_le_iff clkHz.toNat)
  · exact ⟨_, exec_eCfg_ok hcap hclk, rfl, rfl⟩
  · exact ⟨_, exec_dCfg_ok hclk, rfl, rfl⟩

end Sys2Proof.Machine
end

section
/-! SUPPORT. The encoder (spec/41_encoder.md): what each of its commands does on a configured ENC, what the appends of one
command leave, and the frame that E_BUILD stores. -/

namespace Sys2Proof.Machine

variable {s : State} {a : Address} {c : Command}

/-! ## The guard of R120, and what follows it -/

/-- On an unconfigured ENC its commands but E_CFG deliver InvalidArgument and do nothing else. -/
theorem exec_enc_of_unconfigured {i : Instr} (hi : i.isConfig = false) (hb : i.block = .enc)
    (hs : s.enc.configured = false) : exec i s = .next (s.respond .enc (.fail .invalidArgument)) := by
  rw [exec_of_unconfigured hi (by rwa [hb, State.configured_enc]), hb, raiseError_eq]

theorem exec_eReset (hs : s.enc.configured = true) :
    exec .eReset s = .next ((s.withEnc (s.enc.withCursor 0)).respond .enc (.ok .empty)) :=
  if_pos hs

theorem exec_eHead (hs : s.enc.configured = true) : exec .eHead s = emit [headWord s.enc.profile] s := if_pos hs

theorem exec_eBit (value : Bool) (hs : s.enc.configured = true) :
    exec (.eBit value) s = emit [bitWord s.enc.profile value] s :=
  if_pos hs

theorem exec_eEnd (hs : s.enc.configured = true) : exec .eEnd s = emit [endWord s.enc.profile, terminator] s :=
  if_pos hs

theorem exec_eResult (hs : s.enc.configured = true) :
    exec .eResult s = .next (s.respond .enc (.ok (.count s.enc.cursor))) :=
  if_pos hs

/-- R131's three clauses in one: a scan code is redundant exactly when every complement pair agrees. -/
theorem redundant_iff (a : Address) (c : Command) :
    redundant a c = true ↔ a.extractLsb' 0 8 = ~~~(a.extractLsb' 8 8) ∧
      c.extractLsb' 16 8 = ~~~(c.extractLsb' 24 8) ∧ c.extractLsb' 0 8 = ~~~(c.extractLsb' 8 8) := by
  simp only [redundant, Bool.and_eq_true, beq_iff_eq, and_assoc]

/-- Past its validation E_BUILD emits the frame from a zeroed cursor (R132, R134). -/
theorem exec_eBuild_valid (hs : s.enc.configured = true)
    (hvalid : s.enc.profile.ext = true ∨ redundant a c = true) :
    exec (.eBuild a c) s = emit (frameWords s.enc.profile a c) (s.withEnc (s.enc.withCursor 0)) := by
  have hpass : ¬ (s.enc.profile.ext = false ∧ redundant a c = false) := by
    rwa [not_and_or, Bool.not_eq_false, Bool.not_eq_false]
  exact (if_pos hs).trans (if_neg hpass)

/-- An E_BUILD that fails its validation has zeroed the cursor already (R133, conflict C4). -/
theorem exec_eBuild_rejected (hs : s.enc.configured = true) (hext : s.enc.profile.ext = false)
    (hcode : redundant a c = false) :
    exec (.eBuild a c) s = .next ((s.withEnc (s.enc.withCursor 0)).respond .enc (.fail .protocolMismatch)) :=
  (if_pos hs).trans (if_pos ⟨hext, hcode⟩)

/-! ## The appends of one command (R121, R127) -/

/-- An append with room hands the rest of the run the next cursor. -/
theorem appendAll_cons_room {e : Enc} (w : Entry) (ws : List Entry) (h : e.cursor ≠ e.capacity) :
    appendAll (w :: ws) e =
      appendAll ws { e with txbuf := cellWrite e.txbuf e.cursor.toNat w, cursor := e.cursor + 1 } := by
  rw [appendAll, append_room w h]

/-- An append without room ends the run. -/
theorem appendAll_cons_full {e : Enc} (w : Entry) (ws : List Entry) (h : e.cursor = e.capacity) :
    appendAll (w :: ws) e = .overflow (e.withCursor 0) := by
  rw [appendAll, append_full w h]

/-- One append with room for it. -/
theorem emit_one (w : Entry) (hr : representable s.enc.profile.ticks = true)
    (hroom : s.enc.cursor ≠ s.enc.capacity) :
    emit [w] s = .next ((s.withEnc { s.enc with txbuf := cellWrite s.enc.txbuf s.enc.cursor.toNat w,
                                                cursor := s.enc.cursor + 1 }).respond .enc (.ok .empty)) :=
  emit_done hr (appendAll_cons_room w [] hroom)

/-- The first append already finds no room. -/
theorem emit_full (w : Entry) (ws : List Entry) (hr : representable s.enc.profile.ticks = true)
    (hfull : s.enc.cursor = s.enc.capacity) :
    emit (w :: ws) s = .next ((s.withEnc (s.enc.withCursor 0)).respond .enc (.fail .bufferOverflow)) :=
  emit_overflow hr (appendAll_cons_full w ws hfull)

/-- Two appends with room for both. -/
theorem emit_two (v w : Entry) (hr : representable s.enc.profile.ticks = true)
    (hroom : s.enc.cursor ≠ s.enc.capacity) (hroom' : s.enc.cursor + 1 ≠ s.enc.capacity) :
    emit [v, w] s = .next ((s.withEnc
      { s.enc with txbuf := cellWrite (cellWrite s.enc.txbuf s.enc.cursor.toNat v) (s.enc.cursor + 1).toNat w,
                   cursor := s.enc.cursor + 1 + 1 }).respond .enc (.ok .empty)) :=
  emit_done hr ((appendAll_cons_room v [w] hroom).trans (appendAll_cons_room w [] hroom'))

/-- Two appends with room for the first alone: its entry stays, the second zeroes the cursor. -/
theorem emit_two_overflows (v w : Entry) (hr : representable s.enc.profile.ticks = true)
    (hlast : s.enc.cursor + 1 = s.enc.capacity) :
    emit [v, w] s = .next ((s.withEnc { s.enc with txbuf := cellWrite s.enc.txbuf s.enc.cursor.toNat v,
                                                   cursor := 0 }).respond .enc (.fail .bufferOverflow)) := by
  have hroom : s.enc.cursor ≠ s.enc.capacity := by rw [← hlast]; bv_omega
  exact emit_overflow hr ((appendAll_cons_room v [w] hroom).trans (appendAll_cons_full w [] hlast))

/-! ## The frame in TXBUF (R134, R135) -/

/-- Reading after the first `n` words of a frame are stored from index 0 on. -/
theorem cellRead_writeRun_frame (m : Cells Entry) (p : TimingProfile) (a : Address) (c : Command) {n : Nat}
    (hn : n ≤ 51) (i : Nat) :
    cellRead (writeRun m 0 ((frameWords p a c).take n)) i =
      if i < n then some (frameEntryAt p a c i) else cellRead m i := by
  rw [cellRead_writeRun, List.length_take, length_frameWords, Nat.min_eq_left hn, Nat.zero_add]
  by_cases hi : i < n
  · rw [if_pos ⟨Nat.zero_le i, hi⟩, if_pos hi, Nat.sub_zero, List.getElem?_take_of_lt hi,
      getElem?_frameWords p a c (by omega)]
  · rw [if_neg (fun h => hi h.2), if_neg hi]

/-- With room for 51 entries a validated E_BUILD stores the whole frame and answers OK. The frame is written as its first
51 words, so that `cellRead_writeRun_frame` reads it here and after an overflow alike. -/
theorem exec_eBuild_fits (hs : s.enc.configured = true) (hr : representable s.enc.profile.ticks = true)
    (hvalid : s.enc.profile.ext = true ∨ redundant a c = true) (hcap : 51 ≤ s.enc.capacity.toNat) :
    exec (.eBuild a c) s = .next ((s.withEnc
      { s.enc with txbuf := writeRun s.enc.txbuf 0 ((frameWords s.enc.profile a c).take 51),
                   cursor := 51 }).respond .enc (.ok .empty)) := by
  have happends := appendAll_fits (e := s.enc.withCursor 0) (ws := frameWords s.enc.profile a c)
    (by rw [length_frameWords]; exact hcap)
  rw [length_frameWords] at happends
  rw [exec_eBuild_valid hs hvalid, List.take_of_length_le (length_frameWords ..).le]
  exact emit_done hr happends

/-- With less room a validated E_BUILD stores as much of the frame as the capacity holds, zeroes the cursor and answers
BufferOverflow. -/
theorem exec_eBuild_overflows (hs : s.enc.configured = true) (hr : representable s.enc.profile.ticks = true)
    (hvalid : s.enc.profile.ext = true ∨ redundant a c = true) (hcap : s.enc.capacity.toNat < 51) :
    exec (.eBuild a c) s = .next ((s.withEnc
      { s.enc with
        txbuf := writeRun s.enc.txbuf 0 ((frameWords s.enc.profile a c).take s.enc.capacity.toNat),
        cursor := 0 }).respond .enc (.fail .bufferOverflow)) := by
  have happends := appendAll_overflows (e := s.enc.withCursor 0) (ws := frameWords s.enc.profile a c) (Nat.zero_le _)
    (by rw [length_frameWords]; exact Nat.lt_add_left 0 hcap)
  exact (exec_eBuild_valid hs hvalid).trans (emit_overflow hr happends)

/-! ## The statements -/

/-- Settles O25: the frame is one run of 51 stores from index 0. -/
theorem buildWritesTheFrame : Obligations.BuildWritesTheFrame := by
  intro s a c hs hr hcap hvalid
  have hread := cellRead_writeRun_frame s.enc.txbuf s.enc.profile a c (Nat.le_refl 51)
  refine ⟨_, exec_eBuild_fits hs hr hvalid hcap, fun i hi => ?_, fun i hi => ?_⟩
  · rw [hread, if_pos hi]
  · rw [hread, if_neg (not_lt.2 hi)]

/-- Settles O27: below a capacity of 51 the run of stores is cut at the capacity, from 51 on it is not. -/
theorem buildOverflowsASmallBuffer : Obligations.BuildOverflowsASmallBuffer := by
  intro s a c hs hr hvalid
  refine ⟨fun hcap => ?_, fun hcap => ⟨_, exec_eBuild_fits hs hr hvalid hcap, rfl⟩⟩
  have hread := cellRead_writeRun_frame s.enc.txbuf s.enc.profile a c hcap.le
  refine ⟨_, _, exec_eBuild_overflows hs hr hvalid hcap, rfl, fun i hi => ?_, fun i hi => ?_, exec_eResult hs⟩
  · rw [hread, if_pos hi]
  · rw [hread, if_neg (not_lt.2 hi)]

/-- Settles O20: past the guard E_RESET moves the cursor to 0, which E_RESULT then reports. -/
theorem resetCommandZeroesTheCursor : Obligations.ResetCommandZeroesTheCursor :=
  ⟨by decide, fun _ => ⟨fun hs => ⟨_, exec_eReset hs, rfl, exec_eResult hs⟩, exec_enc_of_unconfigured rfl rfl⟩⟩

/-- Settles O21: E_HEAD is one append of the head entry behind the guard. -/
theorem headCommandAppendsTheHead : Obligations.HeadCommandAppendsTheHead :=
  ⟨by decide, fun _ => ⟨exec_enc_of_unconfigured rfl rfl,
    fun hs hr hroom => (exec_eHead hs).trans (emit_one _ hr hroom),
    fun hs hr hfull => (exec_eHead hs).trans (emit_full _ _ hr hfull)⟩⟩

/-- Settles O22: E_BIT is one append of its bit's entry behind the guard. -/
theorem bitCommandAppendsItsTemplate : Obligations.BitCommandAppendsItsTemplate :=
  ⟨by decide, by decide, fun _ => rfl, fun _ value => ⟨exec_enc_of_unconfigured rfl rfl,
    fun hs hr hroom => (exec_eBit value hs).trans (emit_one _ hr hroom),
    fun hs hr hfull => (exec_eBit value hs).trans (emit_full _ _ hr hfull)⟩⟩

/-- Settles O23: E_END is two appends behind the guard, and each may be the one that finds no room. -/
theorem endCommandAppendsEndAndTerminator : Obligations.EndCommandAppendsEndAndTerminator := by
  refine ⟨by decide, fun s => ⟨exec_enc_of_unconfigured rfl rfl, ?_⟩⟩
  rintro _ rfl hs hr
  exact ⟨fun hroom hroom' => (exec_eEnd hs).trans (emit_two _ _ hr hroom hroom'),
    fun hlast => (exec_eEnd hs).trans (emit_two_overflows _ _ hr hlast),
    fun hfull => (exec_eEnd hs).trans (emit_full _ _ hr hfull)⟩

/-- Settles O26: the validation fails on such a code, and with `ext` the tail answers OK or BufferOverflow only. -/
theorem buildRejectsNonRedundantCodes : Obligations.BuildRejectsNonRedundantCodes := by
  refine fun s a c hs => ⟨fun hext hcode => ?_, fun hext t ht => ?_⟩
  · rw [← redundant_iff, Bool.not_eq_true] at hcode
    exact ⟨_, exec_eBuild_rejected hs hext hcode, rfl, exec_eResult hs⟩
  · rw [exec_eBuild_valid hs (.inl hext)] at ht
    have htail := emit_cases (frameWords s.enc.profile a c) (s.withEnc (s.enc.withCursor 0))
    rw [ht] at htail
    obtain ⟨-, ⟨⟩⟩ | ⟨-, e, -, ⟨⟩⟩ | ⟨-, e, -, ⟨⟩⟩ := htail <;> simp

/-- Settles O29: past the guard E_RESULT answers the cursor and touches nothing it reads. -/
theorem resultReportsTheCount : Obligations.ResultReportsTheCount :=
  ⟨by decide, fun _ => ⟨fun hs => ⟨_, exec_eResult hs, rfl, exec_eResult hs⟩, exec_enc_of_unconfigured rfl rfl⟩⟩

/-- Settles O31: the emitting commands end in the tail, which refuses; the others never reach it. -/
theorem unrepresentableTemplatesAreRefused : Obligations.UnrepresentableTemplatesAreRefused := fun _ hs hr =>
  ⟨(exec_eHead hs).trans (emit_refused hr), fun value => (exec_eBit value hs).trans (emit_refused hr),
    (exec_eEnd hs).trans (emit_refused hr), fun _ _ hvalid => (exec_eBuild_valid hs hvalid).trans (emit_refused hr),
    fun _ _ hext hcode => ⟨_, exec_eBuild_rejected hs hext hcode⟩, ⟨_, exec_eReset hs⟩, ⟨_, exec_eResult hs⟩⟩

end Sys2Proof.Machine
end

section
/-! SUPPORT. The decoder (spec/42_decoder.md): the fields of D_INPUT's word, the classification of one entry, the 48 data
bits of a sequence, what D_INPUT and D_DECODE do on a configured DEC. -/

namespace Sys2Proof

/-! ## Fields of an encoded command (R79) -/

/-- Reading a field where it was placed gives it back. -/
theorem extractLsb'_fieldAt_same {w lo : Nat} (v : BitVec w) (h : lo + w ≤ 64) :
    (fieldAt lo v).extractLsb' lo w = v := by
  apply BitVec.eq_of_getLsbD_eq
  intro i hi
  have hword : lo + i < 64 := by omega
  simp [fieldAt, hi, hword]

/-- A field placed above the bits read adds nothing to them. -/
theorem extractLsb'_fieldAt_above {w lo start len : Nat} (v : BitVec w) (h : start + len ≤ lo) :
    (fieldAt lo v).extractLsb' start len = 0 := by
  apply BitVec.eq_of_getLsbD_eq
  intro i hi
  have hbelow : start + i < lo := by omega
  simp [fieldAt, hbelow]

/-- A field placed below the bits read adds nothing to them. -/
theorem extractLsb'_fieldAt_below {w lo start len : Nat} (v : BitVec w) (h : lo + w ≤ start) :
    (fieldAt lo v).extractLsb' start len = 0 := by
  apply BitVec.eq_of_getLsbD_eq
  intro i _
  have hpast : v.getLsbD (start + i - lo) = false := BitVec.getLsbD_of_ge _ _ (by omega)
  simp [fieldAt, hpast]

/-- The row of D_INPUT in R80's table has opcode 9. -/
theorem opcodeOf_encode_dInput (ref : Handle) (length : Count) : opcodeOf (encode (.dInput ref length)) = 0x9 := by
  rw [(Laws.RowOpcode.dInput ref length).1, Instr.row]
  decide

/-- D_INPUT's word has opcode 9, the length in its low half and the reference above it. -/
theorem encode_dInput_fields (ref : Handle) (length : Count) :
    opcodeOf (encode (.dInput ref length)) = 0x9 ∧ (encode (.dInput ref length)).extractLsb' 0 16 = length ∧
      (encode (.dInput ref length)).extractLsb' 16 16 = ref := by
  refine ⟨opcodeOf_encode_dInput ref length, ?_, ?_⟩
  · rw [encode, BitVec.extractLsb'_or, BitVec.extractLsb'_or, extractLsb'_fieldAt_above _ (by decide),
      extractLsb'_fieldAt_above _ (by decide), extractLsb'_fieldAt_same _ (by decide)]
    simp
  · rw [encode, BitVec.extractLsb'_or, BitVec.extractLsb'_or, extractLsb'_fieldAt_above _ (by decide),
      extractLsb'_fieldAt_same _ (by decide), extractLsb'_fieldAt_below _ (by decide)]
    simp

end Sys2Proof

namespace Sys2Proof.Machine

variable {s : State} {p : TimingProfile}

/-! ## Match (R154) -/

/-- Match is a bound on the distance from the target. -/
theorem tolerates_iff_abs_lt (d : Duration) (t m : Tick) :
    tolerates d t m = true ↔ |(d.toNat : Int) - t.toNat| < m.toNat := by
  rw [tolerates_iff, abs_lt]
  omega

/-- Around a target of zero Match is one comparison with the margin. -/
theorem tolerates_zero_iff (d : Duration) (m : Tick) : tolerates d 0 m = true ↔ d.toNat < m.toNat := by
  have hzero : (0 : Tick).toNat = 0 := rfl
  rw [tolerates_iff, hzero]
  omega

/-! ## The classification of an entry (R153, R157 to R161) -/

/-- An entry matches a pair of targets when its levels are the polarity's and each duration matches. -/
theorem matchesPair_iff (p : TimingProfile) (hi lo : Tick) (w : Entry) :
    matchesPair p hi lo w = true ↔ level1 w = (!p.inverted) ∧ level2 w = p.inverted ∧
      tolerates (dur1 w) hi p.margin = true ∧ tolerates (dur2 w) lo p.margin = true := by
  simp only [matchesPair, polarityOk, Bool.and_eq_true, beq_iff_eq, and_assoc]

/-- A bit is read exactly when its template matches and the other does not. -/
theorem bitOf_eq_some_iff (p : TimingProfile) (w : Entry) (b : Bool) :
    bitOf p w = some b ↔ isOne p w = b ∧ isZero p w = !b := by
  unfold bitOf
  cases isZero p w <;> cases isOne p w <;> cases b <;> decide

/-- No bit is read exactly when the templates agree: both match or neither does. -/
theorem bitOf_eq_none_iff (p : TimingProfile) (w : Entry) : bitOf p w = none ↔ isZero p w = isOne p w := by
  unfold bitOf
  cases isZero p w <;> cases isOne p w <;> decide

/-- An entry that matches both templates holds a pair of durations that Distinguishable excludes. -/
theorem not_isZero_and_isOne (hp : Distinguishable p) (w : Entry) : ¬ (isZero p w = true ∧ isOne p w = true) := by
  rintro ⟨hzero, hone⟩
  obtain ⟨-, -, hzero1, hzero2⟩ := (matchesPair_iff ..).1 hzero
  obtain ⟨-, -, hone1, hone2⟩ := (matchesPair_iff ..).1 hone
  exact hp ⟨dur1 w, dur2 w, hzero1, hzero2, hone1, hone2⟩

/-! ## The data bits and the frame (R76, R161 to R163) -/

/-- The bits of `n + 1` entries are the bits of the first `n` and the bit of the next. -/
theorem dataBits_succ_eq_some_iff {e : Nat → Entry} {n : Nat} {data : FrameData} :
    dataBits p e (n + 1) = some data ↔ ∃ low b, dataBits p e n = some low ∧ bitOf p (e (1 + n)) = some b ∧
      low ||| ((BitVec.ofBool b).setWidth 48 <<< n) = data := by
  rw [dataBits]
  cases dataBits p e n <;> cases bitOf p (e (1 + n)) <;> simp

/-- The data bits are read exactly when every one of their entries classifies. -/
theorem dataBits_ne_none_iff {e : Nat → Entry} {n : Nat} :
    dataBits p e n ≠ none ↔ ∀ k < n, bitOf p (e (1 + k)) ≠ none := by
  induction n with
  | zero => simp [dataBits]
  | succ n ih =>
    rw [Nat.forall_lt_succ_right, ← ih]
    simp only [Option.ne_none_iff_exists', dataBits_succ_eq_some_iff]
    exact ⟨fun ⟨_, low, b, hlow, hb, _⟩ => ⟨⟨low, hlow⟩, b, hb⟩,
      fun ⟨⟨low, hlow⟩, b, hb⟩ => ⟨_, low, b, hlow, hb, rfl⟩⟩

/-- The one bit that entry 1 + n adds to the value: `b` at place `n`, false elsewhere. -/
theorem getLsbD_ofBool_shiftLeft (b : Bool) {n : Nat} (hn : n < 48) (k : Nat) :
    (((BitVec.ofBool b).setWidth 48 : FrameData) <<< n).getLsbD k = (decide (k = n) && b) := by
  rw [BitVec.getLsbD_shiftLeft, BitVec.getLsbD_setWidth, BitVec.getLsbD_ofBool]
  by_cases hk : k = n
  · simp [hk, hn]
  · have hpast : n ≤ k → k - n ≠ 0 := by omega
    simp +contextual [hk, hpast]

/-- Bit `k` of the value read is the bit of entry 1 + k, and no bit above those read is set. -/
theorem bitOf_of_dataBits {e : Nat → Entry} {n : Nat} {data : FrameData} (hn : n ≤ 48)
    (h : dataBits p e n = some data) :
    (∀ k < n, bitOf p (e (1 + k)) = some (data.getLsbD k)) ∧ ∀ k, n ≤ k → data.getLsbD k = false := by
  induction n generalizing data with
  | zero =>
    obtain rfl : 0 = data := Option.some.inj h
    simp
  | succ n ih =>
    obtain ⟨low, b, hlow, hb, rfl⟩ := dataBits_succ_eq_some_iff.1 h
    obtain ⟨hread, habove⟩ := ih (by omega) hlow
    simp only [BitVec.getLsbD_or, getLsbD_ofBool_shiftLeft b hn]
    refine ⟨fun k hk => ?_, fun k hk => ?_⟩
    · obtain hlt | rfl := Nat.lt_succ_iff_lt_or_eq.1 hk
      · simp [hread k hlt, hlt.ne]
      · simp [hb, habove k le_rfl]
    · simp [habove k (by omega), show k ≠ n by omega]

/-- A frame is read exactly when its head, its end and all 48 data bits classify. -/
theorem decodeFrame_ne_none_iff (p : TimingProfile) (e : Nat → Entry) :
    decodeFrame p e ≠ none ↔
      headOk p (e 0) = true ∧ endOk p (e 49) = true ∧ ∀ k < 48, bitOf p (e (1 + k)) ≠ none := by
  rw [← dataBits_ne_none_iff, decodeFrame]
  cases headOk p (e 0) <;> cases endOk p (e 49) <;> simp

/-- The value of a frame that is read is its 48 data bits, least significant first. -/
theorem bitOf_of_decodeFrame {e : Nat → Entry} {data : FrameData} (h : decodeFrame p e = some data) {k : Nat}
    (hk : k < 48) : bitOf p (e (1 + k)) = some (data.getLsbD k) := by
  obtain ⟨hhead, hend, -⟩ := (decodeFrame_ne_none_iff p e).1 (by simp [h])
  rw [decodeFrame, if_pos hhead, if_pos hend] at h
  exact (bitOf_of_dataBits le_rfl h).1 k hk

/-- Bit `k` of the address is data bit `k`. -/
theorem getLsbD_addressOf (data : FrameData) {k : Nat} (hk : k < 16) :
    (addressOf data).getLsbD k = data.getLsbD k := by
  simp [addressOf, hk]

/-- Bit `k` of the command is data bit 16 + k. -/
theorem getLsbD_commandOf (data : FrameData) {k : Nat} (hk : k < 32) :
    (commandOf data).getLsbD k = data.getLsbD (16 + k) := by
  simp [commandOf, hk]

/-! ## The commands, past the guard of R150 -/

/-- On an unconfigured DEC its commands but D_CFG deliver InvalidArgument and do nothing else. -/
theorem exec_dec_of_unconfigured {i : Instr} (hi : i.isConfig = false) (hb : i.block = .dec)
    (hs : s.dec.configured = false) : exec i s = .next (s.respond .dec (.fail .invalidArgument)) := by
  rw [exec_of_unconfigured hi (by rwa [hb, State.configured_dec]), hb, raiseError_eq]

/-- D_INPUT rejects the null reference before it looks at the length (R151). -/
theorem exec_dInput_null {ref : Handle} (length : Count) (hs : s.dec.configured = true) (href : ref = 0) :
    exec (.dInput ref length) s = .next (s.respond .dec (.fail .invalidArgument)) :=
  (if_pos hs).trans (if_pos href)

/-- With another length than 50 D_INPUT clears the stored reference. -/
theorem exec_dInput_mismatch {ref : Handle} {length : Count} (hs : s.dec.configured = true) (href : ref ≠ 0)
    (hlen : length ≠ 50) : exec (.dInput ref length) s =
      .next ((s.withDec (s.dec.withInput 0 0)).respond .dec (.fail .lengthMismatch)) := by
  have hne : ¬ length.toNat = Config.frameEntries := fun h => hlen (BitVec.eq_of_toNat_eq h)
  exact (if_pos hs).trans ((if_neg href).trans (if_neg hne))

/-- With length 50 D_INPUT stores the reference. -/
theorem exec_dInput_stores {ref : Handle} {length : Count} (hs : s.dec.configured = true) (href : ref ≠ 0)
    (hlen : length = 50) : exec (.dInput ref length) s =
      .next ((s.withDec (s.dec.withInput ref 50)).respond .dec (.ok .empty)) := by
  have heq : length.toNat = Config.frameEntries := congrArg BitVec.toNat hlen
  exact (if_pos hs).trans ((if_neg href).trans (if_pos heq))

/-- Without a stored reference D_DECODE answers InvalidArgument and does nothing else. -/
theorem exec_dDecode_null (hs : s.dec.configured = true) (href : s.dec.ref = 0) :
    exec .dDecode s = .next (s.respond .dec (.fail .invalidArgument)) :=
  (if_pos hs).trans (if_pos href)

/-- D_DECODE of a sequence that holds no frame changes nothing of DEC. -/
theorem exec_dDecode_failure (hs : s.dec.configured = true) (href : s.dec.ref ≠ 0)
    (hframe : decodeFrame s.dec.profile (rxWord s s.dec.ref) = none) :
    exec .dDecode s = .next (s.nextDraw.respond .dec (.fail .decodeFailure)) := by
  refine (if_pos hs).trans ((if_neg href).trans ?_)
  simp only [hframe, raiseError_eq]

/-- D_DECODE of a frame answers its two halves and keeps them as the last-decoded hint. -/
theorem exec_dDecode_ok {data : FrameData} (hs : s.dec.configured = true) (href : s.dec.ref ≠ 0)
    (hframe : decodeFrame s.dec.profile (rxWord s s.dec.ref) = some data) :
    exec .dDecode s = .next ((s.nextDraw.withDec (s.dec.withLast (addressOf data) (commandOf data))).respond .dec
      (.ok (.scan { address := addressOf data, command := commandOf data, isRepeat := false }))) := by
  refine (if_pos hs).trans ((if_neg href).trans ?_)
  simp only [hframe, returnOk_eq]

/-! ## The statements -/

/-- Settles O40: the command's branch is whether a frame is read, and a frame's bits are those of its two halves. -/
theorem decodeSucceedsExactlyWhenAllClassify : Obligations.DecodeSucceedsExactlyWhenAllClassify := by
  refine ⟨by decide, fun s => ⟨?_, fun hs href => ?_⟩⟩
  · rintro (hs | href)
    · exact exec_dec_of_unconfigured rfl rfl hs
    · cases hs : s.dec.configured with
      | false => exact exec_dec_of_unconfigured rfl rfl hs
      | true => exact exec_dDecode_null hs href
  · rw [← decodeFrame_ne_none_iff, not_not]
    refine ⟨fun hframe => ?_, fun hframe => ⟨_, exec_dDecode_failure hs href hframe⟩⟩
    obtain ⟨data, hdata⟩ := Option.ne_none_iff_exists'.1 hframe
    refine ⟨addressOf data, commandOf data, _, fun k hk => ?_, fun k hk => ?_, exec_dDecode_ok hs href hdata⟩
    · rw [getLsbD_addressOf data hk]
      exact bitOf_of_decodeFrame hdata (by omega)
    · rw [getLsbD_commandOf data hk, show 17 + k = 1 + (16 + k) by omega]
      exact bitOf_of_decodeFrame hdata (by omega)

/-- Settles O34: the word's fields, then D_INPUT's branches one by one. -/
theorem inputStoresOnlyLengthFifty : Obligations.InputStoresOnlyLengthFifty := fun _ ref length =>
  ⟨encode_dInput_fields ref length, exec_dec_of_unconfigured rfl rfl, exec_dInput_null length, exec_dInput_mismatch,
    exec_dInput_stores⟩

/-- Settles O35: the window is a distance below the margin, which over the integers is one at most the margin less 1. -/
theorem matchIsTheStrictWindow : Obligations.MatchIsTheStrictWindow := fun d t m =>
  ⟨tolerates_iff d t m, tolerates_iff_abs_lt d t m, (tolerates_iff_abs_lt d t m).trans Int.le_sub_one_iff.symm⟩

/-- Settles O37: both are matches of a pair of targets, the end's with zero as its second. -/
theorem headAndEndClassification : Obligations.HeadAndEndClassification := by
  refine fun p w => ⟨matchesPair_iff .., ?_⟩
  have hend : endOk p w = true ↔ _ := matchesPair_iff p p.ticks.endHi 0 w
  rwa [tolerates_zero_iff] at hend

/-- Settles O38: the two templates are matches of a pair of targets, and BitOf compares them. -/
theorem bitClassification : Obligations.BitClassification := fun p w =>
  ⟨matchesPair_iff .., matchesPair_iff .., (bitOf_eq_some_iff p w false).trans and_comm, bitOf_eq_some_iff p w true,
    bitOf_eq_none_iff p w, fun hp => not_isZero_and_isOne hp w⟩

end Sys2Proof.Machine
end

section
/-! SUPPORT. The scan code of a frame's 48 data bits, when a frame is read, and what the response of D_DECODE depends on
(spec/44_laws.md rule R191). -/

namespace Sys2Proof.Machine

/-! ## The 48 data bits and their two halves (R77, R162) -/

/-- Data bit `k` is address bit `k`, below 16. -/
theorem getLsbD_dataOf_address (a : Address) (c : Command) {k : Nat} (hk : k < 16) :
    (dataOf a c).getLsbD k = a.getLsbD k := by
  have hword : k < 48 := by omega
  simp [dataOf, hk, hword]

/-- Data bit 16 + k is command bit `k`. -/
theorem getLsbD_dataOf_command (a : Address) (c : Command) {k : Nat} (hk : k < 32) :
    (dataOf a c).getLsbD (16 + k) = c.getLsbD k := by
  have hword : 16 + k < 48 := by omega
  simp [dataOf, hword]

@[simp] theorem addressOf_dataOf (a : Address) (c : Command) : addressOf (dataOf a c) = a :=
  BitVec.eq_of_getLsbD_eq fun _ hk => (getLsbD_addressOf _ hk).trans (getLsbD_dataOf_address a c hk)

@[simp] theorem commandOf_dataOf (a : Address) (c : Command) : commandOf (dataOf a c) = c :=
  BitVec.eq_of_getLsbD_eq fun _ hk => (getLsbD_commandOf _ hk).trans (getLsbD_dataOf_command a c hk)

/-- The two halves put together give the data bits back. -/
@[simp] theorem dataOf_addressOf_commandOf (data : FrameData) : dataOf (addressOf data) (commandOf data) = data := by
  refine BitVec.eq_of_getLsbD_eq fun k hk => ?_
  by_cases haddr : k < 16
  · rw [getLsbD_dataOf_address _ _ haddr, getLsbD_addressOf data haddr]
  · obtain ⟨j, rfl⟩ := Nat.exists_eq_add_of_le (not_lt.1 haddr)
    rw [getLsbD_dataOf_command _ _ (by omega), getLsbD_commandOf data (by omega)]

/-! ## When two reads of a frame agree (R162, R163) -/

/-- A frame whose head, end and data bits classify reads as these data bits: their value is the only one they give. -/
theorem decodeFrame_eq_some {p : TimingProfile} {e : Nat → Entry} {data : FrameData} (hhead : headOk p (e 0) = true)
    (hend : endOk p (e 49) = true) (hbits : ∀ k < 48, bitOf p (e (1 + k)) = some (data.getLsbD k)) :
    decodeFrame p e = some data := by
  have hread : decodeFrame p e ≠ none :=
    (decodeFrame_ne_none_iff p e).2 ⟨hhead, hend, fun k hk => by simp [hbits k hk]⟩
  obtain ⟨data', hdata'⟩ := Option.ne_none_iff_exists'.1 hread
  have hsame : data' = data := BitVec.eq_of_getLsbD_eq fun k hk =>
    Option.some.inj ((bitOf_of_decodeFrame hdata' hk).symm.trans (hbits k hk))
  rw [hdata', hsame]

/-- A frame is read from its 50 classifications alone. -/
theorem decodeFrame_congr {p q : TimingProfile} {e f : Nat → Entry} (hhead : headOk p (e 0) = headOk q (f 0))
    (hend : endOk p (e 49) = endOk q (f 49)) (hbits : ∀ k < 48, bitOf p (e (1 + k)) = bitOf q (f (1 + k))) :
    decodeFrame p e = decodeFrame q f := by
  cases hq : decodeFrame q f with
  | some data =>
    obtain ⟨hhead', hend', -⟩ := (decodeFrame_ne_none_iff q f).1 (by simp [hq])
    exact decodeFrame_eq_some (hhead.trans hhead') (hend.trans hend')
      fun k hk => (hbits k hk).trans (bitOf_of_decodeFrame hq hk)
  | none =>
    by_contra hp
    obtain ⟨hhead', hend', hbits'⟩ := (decodeFrame_ne_none_iff p e).1 hp
    exact (decodeFrame_ne_none_iff q f).2
      ⟨hhead ▸ hhead', hend ▸ hend', fun k hk => hbits k hk ▸ hbits' k hk⟩ hq

/-- The classification of an entry reads the margin, the polarity and every tick register but the ending-low one. -/
theorem classification_congr {p q : TimingProfile}
    (hticks : { p.ticks with endLo := 0 } = { q.ticks with endLo := 0 }) (hmargin : p.margin = q.margin)
    (hinv : p.inverted = q.inverted) (w : Entry) :
    headOk p w = headOk q w ∧ endOk p w = endOk q w ∧ isZero p w = isZero q w ∧ isOne p w = isOne q w := by
  have hpair : ∀ hi lo : Tick, matchesPair p hi lo w = matchesPair q hi lo w := fun hi lo => by
    rw [matchesPair, matchesPair, polarityOk, polarityOk, hmargin, hinv]
  obtain ⟨hleadHi, hleadLo, hl0Hi, hl0Lo, hl1Hi, hl1Lo, hendHi, -⟩ := Ticks.mk.inj hticks
  rw [headOk, headOk, endOk, endOk, isZero, isZero, isOne, isOne, hleadHi, hleadLo, hl0Hi, hl0Lo, hl1Hi, hl1Lo, hendHi]
  exact ⟨hpair _ _, hpair _ _, hpair _ _, hpair _ _⟩

/-! ## The response of D_DECODE (R162 to R166, R191) -/

/-- The response of D_DECODE from what it looks at: the configured bit, the reference and the frame it read. -/
def decodeAnswer (configured : Bool) (ref : Handle) (frame : Option FrameData) : Response :=
  if configured = false ∨ ref = 0 then .fail .invalidArgument
  else
    match frame with
    | none => .fail .decodeFailure
    | some data => .ok (.scan { address := addressOf data, command := commandOf data, isRepeat := false })

/-- A D_DECODE leaves that response on its port. -/
theorem decRsp_of_dDecode {s t : State} (h : exec .dDecode s = .next t) :
    t.decRsp = some (decodeAnswer s.dec.configured s.dec.ref
      (decodeFrame s.dec.profile (rxWord s s.dec.ref))) := by
  unfold decodeAnswer
  split
  case isTrue hguard =>
    have hnone : exec .dDecode s = .next (s.respond .dec (.fail .invalidArgument)) := by
      cases hs : s.dec.configured with
      | false => exact exec_dec_of_unconfigured rfl rfl hs
      | true => exact exec_dDecode_null hs (by simpa [hs] using hguard)
    cases hnone.symm.trans h
    rfl
  case isFalse hguard =>
    rw [not_or, Bool.not_eq_false] at hguard
    obtain ⟨hs, href⟩ := hguard
    cases hframe : decodeFrame s.dec.profile (rxWord s s.dec.ref) with
    | none => cases (exec_dDecode_failure hs href hframe).symm.trans h; rfl
    | some data => cases (exec_dDecode_ok hs href hframe).symm.trans h; rfl

/-- A scan code in the response is the two halves of the frame read. -/
theorem frame_of_decodeAnswer_scan {configured : Bool} {ref : Handle} {frame : Option FrameData} {code : ScanCode}
    (h : decodeAnswer configured ref frame = .ok (.scan code)) :
    frame = some (dataOf code.address code.command) := by
  unfold decodeAnswer at h
  split at h
  · cases h
  · cases frame with
    | none => cases h
    | some data => cases h; rw [dataOf_addressOf_commandOf]

/-- Settles O42: the response is `decodeAnswer` of what it reads, and an answered scan code is the frame whose bits
classified. -/
theorem decodeDependsOnlyOnWhatItReads : Obligations.DecodeDependsOnlyOnWhatItReads := by
  refine ⟨fun s s' t t' hs href hticks hmargin hinv hwords ht ht' => ?_, fun s t code ht hcode i hi => ?_⟩
  · have hclass := classification_congr hticks hmargin hinv
    have hframe : decodeFrame s.dec.profile (rxWord s s.dec.ref) =
        decodeFrame s'.dec.profile (rxWord s' s'.dec.ref) := by
      refine decodeFrame_congr ?_ ?_ fun k hk => ?_
      · rw [hwords 0 (by omega), (hclass _).1]
      · rw [hwords 49 (by omega), (hclass _).2.1]
      · obtain ⟨-, -, hzero, hone⟩ := hclass (rxWord s' s'.dec.ref (1 + k))
        rw [hwords (1 + k) (by omega), bitOf, bitOf, hzero, hone]
    rw [decRsp_of_dDecode ht, decRsp_of_dDecode ht', hframe, hs, href]
  · rw [decRsp_of_dDecode ht] at hcode
    have hframe := frame_of_decodeAnswer_scan (Option.some.inj hcode)
    exact (bitOf_eq_some_iff ..).1 (bitOf_of_decodeFrame hframe hi)

end Sys2Proof.Machine
end

section
/-! SUPPORT. The round trip (spec/44_laws.md rules R181 to R183, R188, R190): the loopback of a built frame holds the
targets of its data bits, so the decoder reads it and everything within the margin of it. -/

namespace Sys2Proof.Machine

variable {p q : TimingProfile} {a : Address} {c : Command}

/-! ## The loopback of a built frame (R75, R181) -/

/-- The entry of a profile's polarity with a pair of targets as its durations. -/
def targetWord (p : TimingProfile) (targets : Tick × Tick) : Entry :=
  entryOf (!p.inverted) (durationOf targets.1) p.inverted (durationOf targets.2)

/-- A data bit's targets are those of its template. -/
theorem targetsAt_bit (p : TimingProfile) (data : FrameData) {k : Nat} (hk : k < 48) :
    targetsAt p data (1 + k) =
      if data.getLsbD k then (p.ticks.l1Hi, p.ticks.l1Lo) else (p.ticks.l0Hi, p.ticks.l0Lo) := by
  rw [targetsAt, if_neg (by omega), if_neg (by omega), Nat.add_sub_cancel_left]

/-- The entry built for a data bit has the bit's targets. -/
theorem bitWord_eq_targetWord (p : TimingProfile) (data : FrameData) {k : Nat} (hk : k < 48) :
    bitWord p (data.getLsbD k) = targetWord p (targetsAt p data (1 + k)) := by
  rw [targetsAt_bit p data hk]
  cases data.getLsbD k <;> rfl

/-- Entries 0 to 48 of a built frame hold their targets. -/
theorem frameEntryAt_eq_targetWord (p : TimingProfile) (a : Address) (c : Command) {i : Nat} (hi : i < 49) :
    frameEntryAt p a c i = targetWord p (targetsAt p (dataOf a c) i) := by
  unfold frameEntryAt
  split_ifs with h0 haddr
  · rw [h0]; rfl
  · obtain ⟨k, rfl⟩ := Nat.exists_eq_add_of_le (Nat.one_le_iff_ne_zero.2 h0)
    rw [← bitWord_eq_targetWord p _ (by omega), Nat.add_sub_cancel_left, getLsbD_dataOf_address _ _ (by omega)]
  · obtain ⟨k, rfl⟩ := Nat.exists_eq_add_of_le (not_lt.1 haddr)
    rw [show 17 + k = 1 + (16 + k) by omega, ← bitWord_eq_targetWord p _ (by omega),
      getLsbD_dataOf_command _ _ (by omega), show 1 + (16 + k) - 17 = k by omega]

/-- Loopback's mask keeps the levels and the first duration and zeroes the second. -/
theorem and_loopbackMask (w : Entry) : w &&& 0x8000FFFF#32 = entryOf (level1 w) (dur1 w) (level2 w) 0 := by
  apply entry_ext
  · rw [level1_entryOf]; simp [level1]
  · rw [dur1_entryOf, dur1, BitVec.extractLsb'_and]; exact BitVec.and_allOnes
  · rw [level2_entryOf]; simp [level2]
  · rw [dur2_entryOf, dur2, BitVec.extractLsb'_and]; exact BitVec.and_zero

/-- Every entry of the loopback of a built frame holds its targets. -/
theorem getElem?_loopback_frameWords (p : TimingProfile) (a : Address) (c : Command) {i : Nat} (hi : i < 50) :
    (loopback (frameWords p a c))[i]? = some (targetWord p (targetsAt p (dataOf a c) i)) := by
  have hkept : ((frameWords p a c).take 49).length = 49 := by simp
  rw [loopback]
  obtain hlt | rfl := Nat.lt_succ_iff_lt_or_eq.1 hi
  · rw [List.getElem?_append_left (hkept ▸ hlt), List.getElem?_take_of_lt hlt, getElem?_frameWords p a c (by omega),
      frameEntryAt_eq_targetWord p a c hlt]
  · have hend := (getElem?_frameWords_end p a c).1
    rw [List.getElem?_append_right hkept.le, hkept]
    simp only [Nat.sub_self, List.getElem?_map, List.getElem?_take, List.getElem?_drop, hend]
    simp [and_loopbackMask, endWord, pairWord, targetWord, targetsAt, tick, durationOf]

@[simp] theorem length_loopback_frameWords (p : TimingProfile) (a : Address) (c : Command) :
    (loopback (frameWords p a c)).length = 50 := by simp [loopback]

/-! ## Jitter (R190) -/

/-- `v` has the levels of `w`, and each duration is less than the margin `m` away from that of `w` (R190). -/
def WithinJitter (m : Tick) (w v : Entry) : Prop :=
  level1 v = level1 w ∧ level2 v = level2 w ∧
  |((dur1 v).toNat : Int) - (dur1 w).toNat| ≤ (m.toNat : Int) - 1 ∧
  |((dur2 v).toNat : Int) - (dur2 w).toNat| ≤ (m.toNat : Int) - 1

/-- A margin that is not 0 tolerates the entry itself. -/
theorem withinJitter_self {m : Tick} (hm : m ≠ 0) (w : Entry) : WithinJitter m w w := by
  have hpos : m.toNat ≠ 0 := fun h => hm (BitVec.eq_of_toNat_eq h)
  refine ⟨rfl, rfl, ?_, ?_⟩ <;> (rw [sub_self, abs_zero]; omega)

/-- An entry within the margin of a pair of targets that fit a duration matches the pair. -/
theorem matchesPair_of_withinJitter {targets : Tick × Tick} {v : Entry} (hinv : p.inverted = q.inverted)
    (hfit : targets.1.toNat ≤ Config.durMax ∧ targets.2.toNat ≤ Config.durMax)
    (hv : WithinJitter q.margin (targetWord p targets) v) : matchesPair q targets.1 targets.2 v = true := by
  obtain ⟨hl1, hl2, hd1, hd2⟩ := hv
  simp only [targetWord, level1_entryOf, level2_entryOf, dur1_entryOf, dur2_entryOf, durationOf_toNat hfit.1,
    durationOf_toNat hfit.2, hinv] at hl1 hl2 hd1 hd2
  exact (matchesPair_iff ..).2 ⟨hl1, hl2, (tolerates_iff_abs_lt ..).2 (Int.le_sub_one_iff.1 hd1),
    (tolerates_iff_abs_lt ..).2 (Int.le_sub_one_iff.1 hd2)⟩

/-- The targets of a representable profile fit a duration. -/
theorem targetsAt_le (hr : representable p.ticks = true) (data : FrameData) (i : Nat) :
    (targetsAt p data i).1.toNat ≤ Config.durMax ∧ (targetsAt p data i).2.toNat ≤ Config.durMax := by
  have hfit := (representable_iff p.ticks).1 hr
  unfold targetsAt
  split_ifs
  · exact ⟨hfit .leadHi, hfit .leadLo⟩
  · exact ⟨hfit .endHi, Nat.zero_le _⟩
  · exact ⟨hfit .l1Hi, hfit .l1Lo⟩
  · exact ⟨hfit .l0Hi, hfit .l0Lo⟩

/-- The targets are read from the tick registers alone. -/
theorem targetsAt_congr (hticks : p.ticks = q.ticks) (data : FrameData) (i : Nat) :
    targetsAt p data i = targetsAt q data i := by
  rw [targetsAt, targetsAt, hticks]

/-! ## Decoding entries that match their targets (R162, R190) -/

/-- With Distinguishable, an entry that matches its bit's template reads as that bit. -/
theorem bitOf_of_matches_targets (hp : Distinguishable p) {data : FrameData} {k : Nat} (hk : k < 48) {w : Entry}
    (hw : matchesPair p (targetsAt p data (1 + k)).1 (targetsAt p data (1 + k)).2 w = true) :
    bitOf p w = some (data.getLsbD k) := by
  rw [targetsAt_bit p data hk] at hw
  have hexcl := not_isZero_and_isOne hp w
  rw [bitOf_eq_some_iff]
  cases hbit : data.getLsbD k with
  | false =>
    have hzero : isZero p w = true := by rwa [hbit] at hw
    exact ⟨Bool.eq_false_iff.2 fun hone => hexcl ⟨hzero, hone⟩, hzero⟩
  | true =>
    have hone : isOne p w = true := by rwa [hbit] at hw
    exact ⟨hone, Bool.eq_false_iff.2 fun hzero => hexcl ⟨hzero, hone⟩⟩

/-- With Distinguishable, 50 entries that match the targets of some data bits are read as these. -/
theorem decodeFrame_of_matches_targets (hp : Distinguishable p) {data : FrameData} {e : Nat → Entry}
    (he : ∀ i < 50, matchesPair p (targetsAt p data i).1 (targetsAt p data i).2 (e i) = true) :
    decodeFrame p e = some data :=
  decodeFrame_eq_some (he 0 (by omega)) (he 49 (by omega))
    fun k hk => bitOf_of_matches_targets hp hk (he (1 + k) (by omega))

/-- Entries within the margin of the loopback of a built frame are read as the frame's data bits. -/
theorem decodeFrame_of_withinJitter (hticks : p.ticks = q.ticks) (hr : representable q.ticks = true)
    (hinv : p.inverted = q.inverted) (hq : Distinguishable q) {e : Nat → Entry}
    (he : ∀ i < 50, ∀ w, (loopback (frameWords p a c))[i]? = some w → WithinJitter q.margin w (e i)) :
    decodeFrame q e = some (dataOf a c) := by
  refine decodeFrame_of_matches_targets hq fun i hi => ?_
  refine matchesPair_of_withinJitter hinv (targetsAt_le hr _ i) ?_
  rw [← targetsAt_congr hticks]
  exact he i hi _ (getElem?_loopback_frameWords p a c hi)

/-- Up to the clock ceiling the registers of a clock are representable (R103). -/
theorem representable_of_le_ceiling {clkHz : BitVec 32} (h : clkHz.toNat ≤ 5957818) :
    representable (ticksFor clkHz) = true :=
  (representable_ticksFor_iff clkHz).2 ((ticksNat_endLow_le_iff clkHz.toNat).2 h)

/-- Settles O50: every entry matches its targets, so the frame's data bits are read. -/
theorem jitterWithinTheMarginDecodes : Obligations.JitterWithinTheMarginDecodes := by
  rintro s clkHz a c p _ hs href hclk hpticks hticks hinv - hdist hlen rfl hjitter
  have hframe : decodeFrame s.dec.profile (rxWord s s.dec.ref) = some (dataOf a c) := by
    refine decodeFrame_of_withinJitter (hpticks.trans hticks.symm) (hticks ▸ representable_of_le_ceiling hclk) hinv
      hdist fun i hi w hw => ?_
    have hlisted := List.getElem?_eq_getElem (hlen.symm ▸ hi)
    rw [rxWord_listed hlisted]
    exact hjitter i hi w _ hw hlisted
  have hdecode := exec_dDecode_ok hs href hframe
  rw [addressOf_dataOf, commandOf_dataOf] at hdecode
  exact ⟨_, hdecode⟩

/-! ## The round trip (R182, R183) -/

/-- A sequence placed under a handle is the one the handle names. -/
theorem rxEntries_write_same (m : Cells (List Entry)) (h : Handle) (ws : List Entry) :
    rxEntries (cellWrite m h.toNat ws) h = ws := by
  rw [rxEntries, cellRead_write_same, Option.getD_some]

/-- Placing a sequence of at least one entry under a handle that is not null (R53). -/
theorem runRxPlace_eq {h : Handle} {ws : List Entry} (s : State) (hh : h ≠ 0) (hws : ws ≠ []) :
    runRxPlace h ws s = .next (s.withRxseq (cellWrite s.rxseq h.toNat ws)) := by
  rw [runRxPlace, if_neg hh, if_neg (by rwa [List.isEmpty_iff])]

/-- After the 51 words of a frame are stored from index 0 on and the cursor set past them, the populated sequence is the
frame. -/
theorem populated_writeRun_frame (e : Enc) (p : TimingProfile) (a : Address) (c : Command) :
    populated { e with txbuf := writeRun e.txbuf 0 ((frameWords p a c).take 51), cursor := 51 } =
      (frameWords p a c).map some := by
  refine List.ext_getElem? fun i => ?_
  have hcursor : (51 : Count).toNat = 51 := rfl
  rw [populated, hcursor, List.getElem?_map, List.getElem?_map]
  by_cases hi : i < 51
  · rw [List.getElem?_range hi, getElem?_frameWords p a c hi, Option.map_some,
      cellRead_writeRun_frame _ p a c le_rfl, if_pos hi, Option.map_some]
  · rw [List.getElem?_eq_none (by simpa using hi), List.getElem?_eq_none (by simpa using hi)]
    rfl

/-- Settles O49: E_BUILD stores the frame, and its loopback is within any margin of itself. -/
theorem roundTripThroughLoopback : Obligations.RoundTripThroughLoopback := by
  intro s clkHz a c h hs hd hclk heticks hdticks hinv hcap hmargin hdist hvalid hh
  have hr : representable (ticksFor clkHz) = true := representable_of_le_ceiling hclk
  have hplaced : loopback (frameWords s.enc.profile a c) ≠ [] :=
    List.ne_nil_of_length_pos (by rw [length_loopback_frameWords]; decide)
  refine ⟨_, _, _, _, _, frameWords s.enc.profile a c, exec_eBuild_fits hs (heticks ▸ hr) hvalid hcap, rfl,
    exec_eResult hs, rfl, populated_writeRun_frame s.enc _ a c, runRxPlace_eq _ hh hplaced,
    exec_dInput_stores hd hh rfl, rfl, exec_dDecode_ok (data := dataOf a c) hd hh ?_, ?_⟩
  · refine decodeFrame_of_withinJitter (heticks.trans hdticks.symm) (hdticks ▸ hr) hinv hdist fun i hi w hw => ?_
    rw [rxWord_listed (w := w) (by simpa [rxEntries_write_same] using hw)]
    exact withinJitter_self hmargin w
  · simp

/-! ## The frame without the adapter (R188) -/

/-- Where the bit templates share their first duration and the second of logic 1 fits an entry, Distinguishable keeps
the margin within the distance of the second durations: else logic 1's own pair of durations matches both. -/
theorem margin_add_le_of_distinguishable (hp : Distinguishable p) (hr : representable p.ticks = true)
    (hm : p.margin ≠ 0) (hhi : p.ticks.l0Hi = p.ticks.l1Hi) (hlo : p.ticks.l0Lo.toNat ≤ p.ticks.l1Lo.toNat) :
    p.margin.toNat + p.ticks.l0Lo.toNat ≤ p.ticks.l1Lo.toNat := by
  have hpos : p.margin.toNat ≠ 0 := fun h => hm (BitVec.eq_of_toNat_eq h)
  have hfit := (representable_iff p.ticks).1 hr
  have hself : ∀ t : Tick, t.toNat ≤ Config.durMax → tolerates (durationOf t) t p.margin = true := fun t ht => by
    rw [tolerates_iff, durationOf_toNat ht]
    omega
  have hfitLow : p.ticks.l1Lo.toNat ≤ Config.durMax := hfit .l1Lo
  have hhigh := hself p.ticks.l1Hi (hfit .l1Hi)
  by_contra hfar
  have hother : tolerates (durationOf p.ticks.l1Lo) p.ticks.l0Lo p.margin = true := by
    rw [tolerates_iff, durationOf_toNat hfitLow]
    omega
  exact hp ⟨durationOf p.ticks.l1Hi, durationOf p.ticks.l1Lo, by rwa [hhi], hother, hhigh, hself _ hfitLow⟩

/-- At one clock a template with a larger constant has at least as many ticks (R102). -/
theorem tick_ticksFor_le_tick (clkHz : BitVec 32) {j k : TickName} (h : templateUs j ≤ templateUs k) :
    (tick (ticksFor clkHz) j).toNat ≤ (tick (ticksFor clkHz) k).toNat := by
  rw [tick_ticksFor_toNat, tick_ticksFor_toNat]
  exact ticksNat_le_ticksNat h le_rfl

/-- At one clock Distinguishable keeps the margin within the ending-low template. -/
theorem margin_le_endLo {clkHz : BitVec 32} (hp : Distinguishable p) (hclk : clkHz.toNat ≤ 5957818)
    (hticks : p.ticks = ticksFor clkHz) (hm : p.margin ≠ 0) : p.margin.toNat ≤ p.ticks.endLo.toNat := by
  have hbits : p.ticks.l0Lo.toNat ≤ p.ticks.l1Lo.toNat :=
    hticks ▸ tick_ticksFor_le_tick clkHz (j := .l0Lo) (k := .l1Lo) (by decide)
  have hend : p.ticks.l1Lo.toNat ≤ p.ticks.endLo.toNat :=
    hticks ▸ tick_ticksFor_le_tick clkHz (j := .l1Lo) (k := .endLo) (by decide)
  have hgap := margin_add_le_of_distinguishable hp (hticks ▸ representable_of_le_ceiling hclk) hm
    (by rw [hticks]; rfl) hbits
  omega

/-- An ending entry as built, with its ending-low duration in place, is no end of a received frame unless the margin
reaches that far. -/
theorem endOk_endWord_eq_false (hr : representable p.ticks = true) (h : q.margin.toNat ≤ p.ticks.endLo.toNat) :
    endOk q (endWord p) = false := by
  rw [Bool.eq_false_iff]
  intro hend
  obtain ⟨-, -, -, hlow⟩ := (matchesPair_iff ..).1 hend
  rw [tolerates_zero_iff, endWord, pairWord, dur2_entryOf, durationOf_toNat ((representable_iff _).1 hr .endLo)] at hlow
  exact absurd hlow (not_lt.2 h)

/-- A sequence whose entry 49 is no end holds no frame. -/
theorem decodeFrame_eq_none_of_endOk {e : Nat → Entry} (h : endOk p (e 49) = false) : decodeFrame p e = none := by
  by_contra hread
  obtain ⟨-, hend, -⟩ := (decodeFrame_ne_none_iff p e).1 hread
  rw [h] at hend
  cases hend

/-- Settles O52: the ending-low template is at least the margin, and 51 is not 50. -/
theorem roundTripFailsWithoutLoopback : Obligations.RoundTripFailsWithoutLoopback := by
  intro s clkHz a c h p hs hclk hpticks hticks _ hm hdist hh
  refine ⟨fun hrx => ⟨_, exec_dInput_stores hs hh rfl, rfl, _, exec_dDecode_failure hs hh ?_⟩,
    _, exec_dInput_mismatch hs hh (by decide), rfl⟩
  have hentry : (rxEntries s.rxseq h)[49]? = some (endWord p) := by
    rw [hrx, List.getElem?_take_of_lt (by decide), (getElem?_frameWords_end p a c).1]
  refine decodeFrame_eq_none_of_endOk ?_
  rw [rxWord_listed (w := endWord p)]
  · refine endOk_endWord_eq_false (hpticks ▸ representable_of_le_ceiling hclk) ?_
    rw [hpticks, ← hticks]
    exact margin_le_endLo hdist hclk hticks hm
  · exact hentry

end Sys2Proof.Machine
end

section
/-! SUPPORT. Building a frame by hand (spec/44_laws.md rule R189): emitting commands one after the other append what each
of them emits, so the hand-built frame is one run of appends, E_BUILD's. -/

namespace Sys2Proof.Machine

variable {s : State} {a : Address} {c : Command}

/-! ## Emitting commands one after the other (R121, R138) -/

/-- The commands that append the entries their operands give, and no others: E_HEAD, E_BIT and E_END. -/
def Emits (i : Instr) : Prop := i = .eHead ∨ (∃ value, i = .eBit value) ∨ i = .eEnd

/-- The entries such a command appends (R124 to R126). -/
def emittedBy (p : TimingProfile) : Instr → List Entry
  | .eHead => [headWord p]
  | .eBit value => [bitWord p value]
  | .eEnd => [endWord p, terminator]
  | .eCfg _ _ _ _ | .eReset | .eBuild _ _ | .eResult | .dCfg _ _ _ _ | .dInput _ _ | .dDecode => []

/-- On a configured ENC an emitting command is the tail with its entries. -/
theorem exec_of_emits {i : Instr} (hi : Emits i) (hs : s.enc.configured = true) :
    exec i s = emit (emittedBy s.enc.profile i) s := by
  obtain rfl | ⟨value, rfl⟩ | rfl := hi
  · exact exec_eHead hs
  · exact exec_eBit value hs
  · exact exec_eEnd hs

/-- The tail overwrites the response that stood on the port. -/
theorem emit_respond (ws : List Entry) (s : State) (r : Response) : emit ws (s.respond .enc r) = emit ws s := by
  obtain ⟨hr, he⟩ | ⟨hr, e, ha, he⟩ | ⟨hr, e, ha, he⟩ := emit_cases ws s
  · rw [he]; exact emit_refused hr
  · rw [he]; exact emit_done hr ha
  · rw [he]; exact emit_overflow hr ha

/-- Emitting nothing where the last answer was OK. -/
theorem emit_nil (hr : representable s.enc.profile.ticks = true) (hok : s.encRsp = some (.ok .empty)) :
    emit [] s = .next s := by
  rw [emit_done hr rfl, State.respond, ← hok]
  rfl

/-- The tail after a tail that appended: the entries of both are appended. -/
theorem emit_after_emit {ws vs : List Entry} {e : Enc} (ha : appendAll ws s.enc = .done e) :
    emit vs ((s.withEnc e).respond .enc (.ok .empty)) = emit (ws ++ vs) s := by
  have hkeeps := appendAll_keeps ws s.enc
  have happ := appendAll_append ws vs s.enc
  rw [ha] at hkeeps happ
  rw [emit_respond, emit, emit, happ, State.withEnc_enc, hkeeps.2.1]
  rfl

/-- Emitting commands with room for all their entries, after an OK, append the entries of all of them. -/
theorem execAll_of_emits {is : List Instr} (his : ∀ i ∈ is, Emits i) (hs : s.enc.configured = true)
    (hr : representable s.enc.profile.ticks = true) (hok : s.encRsp = some (.ok .empty))
    (hroom : s.enc.cursor.toNat + (is.flatMap (emittedBy s.enc.profile)).length ≤ s.enc.capacity.toNat) :
    execAll is s = emit (is.flatMap (emittedBy s.enc.profile)) s := by
  induction is generalizing s with
  | nil => exact (emit_nil hr hok).symm
  | cons i is ih =>
    obtain ⟨hi, his⟩ := List.forall_mem_cons.1 his
    rw [List.flatMap_cons, List.length_append] at hroom
    have hcap := s.enc.capacity.isLt
    have happends := appendAll_fits (ws := emittedBy s.enc.profile i) (e := s.enc) (by omega)
    rw [execAll, exec_of_emits hi hs, emit_done hr happends, List.flatMap_cons, ← emit_after_emit happends]
    refine ih his hs hr rfl ?_
    simp only [State.respond_enc_enc, State.withEnc_enc, BitVec.toNat_ofNat]
    omega

/-! ## The hand-built frame (R89, R189) -/

/-- The commands of a frame built by hand, after its E_RESET. -/
def handBuiltBody (a : Address) (c : Command) : List Instr :=
  .eHead :: (eBits (a.setWidth 48) 16 ++ (eBits (c.setWidth 48) 32 ++ [.eEnd]))

theorem handBuilt_eq (a : Address) (c : Command) : handBuilt a c = .eReset :: handBuiltBody a c := rfl

@[simp] theorem length_eBits (v : FrameData) (n : Nat) : (eBits v n).length = n := by simp [eBits]

theorem length_handBuilt (a : Address) (c : Command) : (handBuilt a c).length = 51 := by simp [handBuilt]

theorem emits_of_mem_eBits {v : FrameData} {n : Nat} {i : Instr} (hi : i ∈ eBits v n) : Emits i := by
  obtain ⟨k, -, rfl⟩ := List.mem_map.1 hi
  exact .inr (.inl ⟨_, rfl⟩)

theorem emits_of_mem_handBuiltBody {i : Instr} (hi : i ∈ handBuiltBody a c) : Emits i := by
  simp only [handBuiltBody, List.mem_cons, List.mem_append, List.not_mem_nil, or_false] at hi
  obtain rfl | hi | hi | rfl := hi
  · exact .inl rfl
  · exact emits_of_mem_eBits hi
  · exact emits_of_mem_eBits hi
  · exact .inr (.inr rfl)

/-- E_BITS of a value's low bits emits their entries. -/
theorem flatMap_emittedBy_eBits (p : TimingProfile) {w n : Nat} (v : BitVec w) (hn : n ≤ 48) :
    (eBits (v.setWidth 48) n).flatMap (emittedBy p) = bitWords p v n := by
  rw [eBits, List.flatMap_map, bitWords, List.map_eq_flatMap]
  refine List.flatMap_congr fun k hk => ?_
  have hk48 : k < 48 := (List.mem_range.1 hk).trans_le hn
  simp [emittedBy, hk48]

/-- The body emits the frame. -/
theorem flatMap_emittedBy_handBuiltBody (p : TimingProfile) (a : Address) (c : Command) :
    (handBuiltBody a c).flatMap (emittedBy p) = frameWords p a c := by
  rw [handBuiltBody, List.flatMap_cons, List.flatMap_append, List.flatMap_append,
    flatMap_emittedBy_eBits p a (by decide), flatMap_emittedBy_eBits p c (by decide)]
  rfl

/-- The first commands of the body emit the first entries of the frame, so at most 51. -/
theorem length_flatMap_emittedBy_take_le (p : TimingProfile) (a : Address) (c : Command) (n : Nat) :
    (((handBuiltBody a c).take n).flatMap (emittedBy p)).length ≤ 51 := by
  have hwhole := congrArg (fun is => (is.flatMap (emittedBy p)).length) (List.take_append_drop n (handBuiltBody a c))
  simp only [List.flatMap_append, List.length_append, flatMap_emittedBy_handBuiltBody, length_frameWords] at hwhole
  omega

/-- With room for 51 entries, the first commands of the hand-built frame are one run of appends from a zeroed cursor. -/
theorem execAll_take_handBuilt (hs : s.enc.configured = true) (hr : representable s.enc.profile.ticks = true)
    (hcap : 51 ≤ s.enc.capacity.toNat) (n : Nat) :
    execAll ((handBuilt a c).take (n + 1)) s =
      emit (((handBuiltBody a c).take n).flatMap (emittedBy s.enc.profile)) (s.withEnc (s.enc.withCursor 0)) := by
  rw [handBuilt_eq, List.take_succ_cons, execAll, exec_eReset hs, ← emit_respond]
  refine execAll_of_emits (fun i hi => emits_of_mem_handBuiltBody (List.mem_of_mem_take hi)) hs hr rfl ?_
  exact (Nat.zero_add _).trans_le ((length_flatMap_emittedBy_take_le ..).trans hcap)

/-- With room for 51 entries, the whole of it is the run of appends of the frame. -/
theorem execAll_handBuilt (hs : s.enc.configured = true) (hr : representable s.enc.profile.ticks = true)
    (hcap : 51 ≤ s.enc.capacity.toNat) :
    execAll (handBuilt a c) s = emit (frameWords s.enc.profile a c) (s.withEnc (s.enc.withCursor 0)) := by
  have hlen := length_handBuilt a c
  rw [handBuilt_eq, List.length_cons, Nat.succ_inj] at hlen
  have hwhole := execAll_take_handBuilt (a := a) (c := c) hs hr hcap 50
  rwa [List.take_of_length_le (length_handBuilt a c).le, List.take_of_length_le hlen.le,
    flatMap_emittedBy_handBuiltBody] at hwhole

/-- With room for 51 entries from a zeroed cursor the tail stores a whole frame and answers OK. -/
theorem emit_frameWords_fits (p : TimingProfile) (a : Address) (c : Command)
    (hr : representable s.enc.profile.ticks = true) (hcap : 51 ≤ s.enc.capacity.toNat) :
    emit (frameWords p a c) (s.withEnc (s.enc.withCursor 0)) = .next ((s.withEnc
      { s.enc with txbuf := writeRun s.enc.txbuf 0 ((frameWords p a c).take 51), cursor := 51 }).respond .enc
        (.ok .empty)) := by
  have happends := appendAll_fits (e := s.enc.withCursor 0) (ws := frameWords p a c)
    (by rw [length_frameWords]; exact hcap)
  rw [length_frameWords] at happends
  rw [List.take_of_length_le (length_frameWords ..).le]
  exact emit_done hr happends

/-- Settles O48: the first commands are always a run of appends with room, and the whole run is the one of E_BUILD. -/
theorem handBuiltFrameEqualsBuild : Obligations.HandBuiltFrameEqualsBuild := by
  intro s a c hs hr hcap
  refine ⟨length_handBuilt a c, fun n hn _ => ?_, ?_⟩
  · obtain ⟨m, rfl⟩ := Nat.exists_eq_succ_of_ne_zero hn.ne'
    rw [execAll_take_handBuilt hs hr hcap m]
    have hfits := (length_flatMap_emittedBy_take_le s.enc.profile a c m).trans hcap
    exact ⟨_, emit_done hr (appendAll_fits ((Nat.zero_add _).trans_le hfits)), rfl⟩
  · have hrun := execAll_handBuilt (a := a) (c := c) hs hr hcap
    refine ⟨_, hrun.trans (emit_frameWords_fits _ a c hr hcap), rfl, fun i hi => ?_, fun hvalid => ?_⟩
    · simp only [State.respond_enc_enc, State.withEnc_enc]
      rw [cellRead_writeRun_frame _ _ a c le_rfl, if_pos hi]
    · exact exec_eBuild_fits hs hr hvalid hcap

end Sys2Proof.Machine
end

section
/-! SUPPORT. How long a built frame lasts (spec/44_laws.md rule R192): the durations of its templates added up, and the 24
ones of a redundant scan code. -/

namespace Sys2Proof.Machine

variable {p : TimingProfile} {a : Address} {c : Command}

/-! ## The ones of a value -/

theorem onesBelow_succ {w : Nat} (v : BitVec w) (n : Nat) :
    onesBelow v (n + 1) = onesBelow v n + (v.getLsbD n).toNat := by
  simp [onesBelow, List.range_succ]

/-- At most every bit is a 1. -/
theorem onesBelow_le {w : Nat} (v : BitVec w) (n : Nat) : onesBelow v n ≤ n := by
  induction n with
  | zero => exact le_rfl
  | succ n ih =>
    have hbit := (v.getLsbD n).toNat_le
    rw [onesBelow_succ]
    omega

/-- The ones of the low `lo + n` bits are those of the low `lo` bits and those of the field above them. -/
theorem onesBelow_add {w : Nat} (v : BitVec w) (lo n : Nat) :
    onesBelow v (lo + n) = onesBelow v lo + onesBelow (v.extractLsb' lo n) n := by
  have hfield : ∀ k ≤ n, onesBelow v (lo + k) = onesBelow v lo + onesBelow (v.extractLsb' lo n) k := by
    intro k hk
    induction k with
    | zero => rfl
    | succ k ih =>
      rw [← Nat.add_assoc, onesBelow_succ, onesBelow_succ, ih (by omega), Nat.add_assoc, BitVec.getLsbD_extractLsb']
      simp [show k < n by omega]
  exact hfield n le_rfl

/-- A value and its complement have a 1 at every place together. -/
theorem onesBelow_not_add {w : Nat} (v : BitVec w) {n : Nat} (hn : n ≤ w) :
    onesBelow (~~~v) n + onesBelow v n = n := by
  induction n with
  | zero => rfl
  | succ n ih =>
    have hbit : ((~~~v).getLsbD n).toNat + (v.getLsbD n).toNat = 1 := by
      rw [BitVec.getLsbD_not, decide_eq_true (show n < w by omega)]
      cases v.getLsbD n <;> rfl
    have hbelow := ih (by omega)
    rw [onesBelow_succ, onesBelow_succ]
    omega

/-- Each of the three complement pairs of bytes has eight ones (R131, R192). -/
theorem onesBelow_of_redundant (h : redundant a c = true) : onesBelow a 16 + onesBelow c 32 = 24 := by
  obtain ⟨haddr, hhigh, hlow⟩ := (redundant_iff a c).1 h
  have hpair : ∀ x : BitVec 8, onesBelow (~~~x) 8 + onesBelow x 8 = 8 := fun x => onesBelow_not_add x le_rfl
  have haddr8 := hpair (a.extractLsb' 8 8)
  have hlow8 := hpair (c.extractLsb' 8 8)
  have hhigh8 := hpair (c.extractLsb' 24 8)
  rw [← haddr] at haddr8
  rw [← hlow] at hlow8
  rw [← hhigh] at hhigh8
  have ha : onesBelow a 16 = 0 + onesBelow (a.extractLsb' 0 8) 8 + onesBelow (a.extractLsb' 8 8) 8 := by
    rw [onesBelow_add a 8 8, onesBelow_add a 0 8]; rfl
  have hc : onesBelow c 32 = 0 + onesBelow (c.extractLsb' 0 8) 8 + onesBelow (c.extractLsb' 8 8) 8 +
      onesBelow (c.extractLsb' 16 8) 8 + onesBelow (c.extractLsb' 24 8) 8 := by
    rw [onesBelow_add c 24 8, onesBelow_add c 16 8, onesBelow_add c 8 8, onesBelow_add c 0 8]; rfl
  omega

/-! ## The duration of a frame -/

@[simp] theorem sequenceTicks_nil : sequenceTicks [] = 0 := rfl

theorem sequenceTicks_cons (w : Entry) (ws : List Entry) :
    sequenceTicks (w :: ws) = (dur1 w).toNat + (dur2 w).toNat + sequenceTicks ws := by
  simp [sequenceTicks]

theorem sequenceTicks_append (ws vs : List Entry) :
    sequenceTicks (ws ++ vs) = sequenceTicks ws + sequenceTicks vs := by
  simp [sequenceTicks]

/-- An entry built from two templates that fit lasts their ticks. -/
theorem dur_pairWord (hr : representable p.ticks = true) (hi lo : TickName) :
    (dur1 (pairWord p hi lo)).toNat + (dur2 (pairWord p hi lo)).toNat =
      (tick p.ticks hi).toNat + (tick p.ticks lo).toNat := by
  have hfit := (representable_iff p.ticks).1 hr
  rw [pairWord, dur1_entryOf, dur2_entryOf, durationOf_toNat (hfit hi), durationOf_toNat (hfit lo)]

/-- The entries of `n` bits last the logic 0 template for each 0 and the logic 1 template for each 1. -/
theorem sequenceTicks_bitWords (hr : representable p.ticks = true) {w : Nat} (v : BitVec w) (n : Nat) :
    sequenceTicks (bitWords p v n) = (n - onesBelow v n) * (p.ticks.l0Hi.toNat + p.ticks.l0Lo.toNat) +
      onesBelow v n * (p.ticks.l1Hi.toNat + p.ticks.l1Lo.toNat) := by
  induction n with
  | zero => simp [bitWords, onesBelow]
  | succ n ih =>
    have hsplit : bitWords p v (n + 1) = bitWords p v n ++ [bitWord p (v.getLsbD n)] := by
      simp [bitWords, List.range_succ]
    have hle := onesBelow_le v n
    have hzero : (dur1 (bitWord p false)).toNat + (dur2 (bitWord p false)).toNat =
      p.ticks.l0Hi.toNat + p.ticks.l0Lo.toNat := dur_pairWord hr .l0Hi .l0Lo
    have hone : (dur1 (bitWord p true)).toNat + (dur2 (bitWord p true)).toNat =
      p.ticks.l1Hi.toNat + p.ticks.l1Lo.toNat := dur_pairWord hr .l1Hi .l1Lo
    rw [hsplit, sequenceTicks_append, ih, sequenceTicks_cons, sequenceTicks_nil, onesBelow_succ]
    cases v.getLsbD n with
    | false => simp only [hzero, Bool.toNat_false, Nat.add_zero, Nat.sub_add_comm hle]; ring
    | true => rw [hone, Bool.toNat_true, Nat.add_sub_add_right]; ring

/-- A built frame without its terminator. -/
theorem take_frameWords (p : TimingProfile) (a : Address) (c : Command) :
    (frameWords p a c).take 50 = headWord p :: (bitWords p a 16 ++ (bitWords p c 32 ++ [endWord p])) := by
  have hwhole : frameWords p a c =
      (headWord p :: (bitWords p a 16 ++ (bitWords p c 32 ++ [endWord p]))) ++ [terminator] := by
    simp [frameWords]
  rw [hwhole]
  exact List.take_left' (by simp)

/-- It lasts its head, its 48 bits by the number of ones among them, and its end. -/
theorem sequenceTicks_frame (hr : representable p.ticks = true) (a : Address) (c : Command) :
    sequenceTicks ((frameWords p a c).take 50) =
      p.ticks.leadHi.toNat + p.ticks.leadLo.toNat +
      (48 - (onesBelow a 16 + onesBelow c 32)) * (p.ticks.l0Hi.toNat + p.ticks.l0Lo.toNat) +
      (onesBelow a 16 + onesBelow c 32) * (p.ticks.l1Hi.toNat + p.ticks.l1Lo.toNat) +
      p.ticks.endHi.toNat + p.ticks.endLo.toNat := by
  have hhead : (dur1 (headWord p)).toNat + (dur2 (headWord p)).toNat =
    p.ticks.leadHi.toNat + p.ticks.leadLo.toNat := dur_pairWord hr .leadHi .leadLo
  have hend : (dur1 (endWord p)).toNat + (dur2 (endWord p)).toNat =
    p.ticks.endHi.toNat + p.ticks.endLo.toNat := dur_pairWord hr .endHi .endLo
  have ha := onesBelow_le a 16
  have hc := onesBelow_le c 32
  have hzeros : 48 - (onesBelow a 16 + onesBelow c 32) = (16 - onesBelow a 16) + (32 - onesBelow c 32) := by omega
  rw [take_frameWords, sequenceTicks_cons, sequenceTicks_append, sequenceTicks_append, sequenceTicks_bitWords hr,
    sequenceTicks_bitWords hr, sequenceTicks_cons, sequenceTicks_nil, hhead, hend, hzeros]
  ring

/-- At 1 MHz, where a tick is a microsecond: 68600 ticks with no ones, and 1130 more for each of them. -/
theorem sequenceTicks_frame_one_megahertz (hp : p.ticks = ticksFor 1000000) (a : Address) (c : Command) :
    sequenceTicks ((frameWords p a c).take 50) = 68600 + (onesBelow a 16 + onesBelow c 32) * 1130 := by
  have hr : representable p.ticks = true := hp ▸ representable_of_le_ceiling (by decide)
  have hregs : ticksFor 1000000 = ⟨4280, 4500, 560, 560, 560, 1690, 560, 5500⟩ := by decide
  have ha := onesBelow_le a 16
  have hc := onesBelow_le c 32
  rw [sequenceTicks_frame hr, hp, hregs]
  simp only [BitVec.reduceToNat, Nat.reduceAdd]
  omega

/-- Settles O53: the templates added up, the three complement pairs, and the lengths at 1 MHz from the number of ones. -/
theorem frameDuration : Obligations.FrameDuration := by
  refine ⟨fun p a c hr => sequenceTicks_frame hr a c, fun a c => onesBelow_of_redundant, fun p hp => ?_⟩
  have hlength := sequenceTicks_frame_one_megahertz hp
  refine ⟨fun a c hcode => ?_, ?_, ?_⟩
  · rw [hlength, onesBelow_of_redundant hcode]
  · rw [hlength]; decide
  · rw [hlength]; decide

end Sys2Proof.Machine
end

section
/-! SUPPORT. Exceptions (spec/60_exceptions.md). -/

namespace Sys2Proof.Machine

/-- Settles O13: the guard delivers InvalidArgument, and delivering writes the sub-block's own port and nothing else. -/
theorem unconfiguredSubBlockAnswersInvalidArgument : Obligations.UnconfiguredSubBlockAnswersInvalidArgument := by
  intro s i hi hs
  rw [exec_of_unconfigured hi hs, raiseError_eq]
  cases i.block with
  | enc => rfl
  | dec => rfl

end Sys2Proof.Machine
end

section
/-! SUPPORT. Decoding and encoding undo each other (spec/30_encoding.md rules R79, R80, R85): a word decodes to a command
exactly when it has the command's opcode and holds its operands, and R80's match and mask table tests just that. -/

namespace Sys2Proof

/-! ## A word decodes to a command exactly when it holds the opcode and the operands (R79, R80) -/

/-- The opcode of a command, as R80's opcode map lists it. -/
def Instr.opcode : Instr → BitVec 4
  | .eCfg _ _ _ _ => 0x0
  | .eReset => 0x1
  | .eHead => 0x2
  | .eBit _ => 0x3
  | .eEnd => 0x4
  | .eBuild _ _ => 0x5
  | .eResult => 0x6
  | .dCfg _ _ _ _ => 0x8
  | .dInput _ _ => 0x9
  | .dDecode => 0xA

/-- A legal word has the opcode of the command it decodes to. -/
theorem opcodeOf_of_decode {cw : CommandWord} {i : Instr} (h : decode cw = .ok i) : opcodeOf cw = i.opcode := by
  unfold decode at h
  split at h
  · obtain ⟨-, rfl⟩ := zeros_of_format_ok h; assumption
  · obtain ⟨-, rfl⟩ := decodeN_ok h; assumption
  · obtain ⟨-, rfl⟩ := decodeN_ok h; assumption
  · obtain ⟨-, rfl⟩ := zeros_of_format_ok h; assumption
  · obtain ⟨-, rfl⟩ := decodeN_ok h; assumption
  · obtain ⟨-, rfl⟩ := zeros_of_format_ok h; assumption
  · obtain ⟨-, rfl⟩ := decodeN_ok h; assumption
  · obtain ⟨-, rfl⟩ := zeros_of_format_ok h; assumption
  · obtain ⟨-, rfl⟩ := zeros_of_format_ok h; assumption
  · obtain ⟨-, rfl⟩ := decodeN_ok h; assumption
  · cases h

/-- A word with a command's opcode that holds its operands decodes to it. -/
theorem decode_of_readFrom {cw : CommandWord} {i : Instr} (hop : opcodeOf cw = i.opcode) (h : i.ReadFrom cw) :
    decode cw = .ok i := by
  cases i with
  | eReset | eHead | eEnd | eResult | dDecode =>
    have hz : cw.extractLsb' 0 60 = 0 := h
    rw [decode, hop]
    simp [Instr.opcode, decodeN, zeroFrom, hz]
  | eCfg | dCfg =>
    obtain ⟨rfl, rfl, rfl, rfl, hz⟩ := h
    rw [decode, hop]
    simp [Instr.opcode, decodeCE, decodeCD, zeroFrom, hz]
  | eBit =>
    obtain ⟨rfl, hz⟩ := h
    rw [decode, hop]
    simp [Instr.opcode, decodeV, zeroFrom, hz]
  | eBuild | dInput =>
    obtain ⟨rfl, rfl, hz⟩ := h
    rw [decode, hop]
    simp [Instr.opcode, decodeAC, decodeRL, zeroFrom, hz]

theorem decode_eq_ok_iff {cw : CommandWord} {i : Instr} :
    decode cw = .ok i ↔ opcodeOf cw = i.opcode ∧ i.ReadFrom cw :=
  ⟨fun h => ⟨opcodeOf_of_decode h, decode_readFrom h⟩, fun ⟨hop, h⟩ => decode_of_readFrom hop h⟩

/-! ## The encoded word holds its command's operands (R79) -/

/-- One bit of a placed field. -/
theorem getLsbD_fieldAt {w : Nat} (lo : Nat) (v : BitVec w) {k : Nat} (hk : k < 64) :
    (fieldAt lo v).getLsbD k = (decide (lo ≤ k) && v.getLsbD (k - lo)) := by
  have hpast : k - lo < 64 := by omega
  by_cases hlo : lo ≤ k
  · simp only [fieldAt, BitVec.getLsbD_shiftLeft, BitVec.getLsbD_setWidth, hk, hpast, hlo, not_lt.2 hlo]
    simp
  · simp [fieldAt, hk, hlo, not_le.1 hlo]

/-- The operands of formats CE and CD, under either of the two opcodes. -/
theorem extract_configWord (op : BitVec 4) (clkHz : BitVec 32) (count : BitVec 16) (ext inv : Bool) {cw : CommandWord}
    (hcw : cw = fieldAt 60 op ||| fieldAt 49 (BitVec.ofBool inv) ||| fieldAt 48 (BitVec.ofBool ext) |||
      fieldAt 32 count ||| fieldAt 0 clkHz) :
    clkHz = cw.extractLsb' 0 32 ∧ count = cw.extractLsb' 32 16 ∧ ext = cw.getLsbD 48 ∧ inv = cw.getLsbD 49 ∧
      cw.extractLsb' 50 10 = 0 := by
  subst hcw
  have bit (k : Nat) (hk : k < 64) := fun {w : Nat} (lo : Nat) (v : BitVec w) => getLsbD_fieldAt lo v hk
  refine ⟨?_, ?_, ?_, ?_, ?_⟩
  case refine_3 => simp only [BitVec.getLsbD_or, bit 48 (by decide)]; simp
  case refine_4 => simp only [BitVec.getLsbD_or, bit 49 (by decide)]; simp
  all_goals
    simp [BitVec.extractLsb'_or, extractLsb'_fieldAt_same, extractLsb'_fieldAt_above, extractLsb'_fieldAt_below]

/-- The encoded word holds the command's operands. -/
theorem readFrom_encode (i : Instr) : i.ReadFrom (encode i) := by
  cases i with
  | eCfg clkHz cap ext inv => exact extract_configWord 0x0 clkHz cap ext inv rfl
  | dCfg clkHz marginUs ext inv => exact extract_configWord 0x8 clkHz marginUs ext inv rfl
  | eReset | eHead | eEnd | eResult | dDecode => simp only [Instr.ReadFrom]; decide
  | eBit value => cases value <;> simp only [Instr.ReadFrom] <;> decide
  | eBuild | dInput =>
    simp [Instr.ReadFrom, encode, BitVec.extractLsb'_or, extractLsb'_fieldAt_same, extractLsb'_fieldAt_above,
      extractLsb'_fieldAt_below]

/-- A row's pattern is its command's opcode with every other bit 0. -/
theorem row_pattern (i : Instr) : i.row.pattern = fieldAt 60 i.opcode := by
  cases i <;> (simp only [Instr.row, Instr.opcode]; decide)

/-- The encoded word has the command's opcode, its row's. -/
theorem opcodeOf_encode (i : Instr) : opcodeOf (encode i) = i.opcode := by
  rw [← Laws.RowOpcode.opcodeOf_op i.opcode, ← row_pattern]
  cases i with
  | eCfg clkHz cap ext inv => exact (Laws.RowOpcode.eCfg clkHz cap ext inv).1
  | eReset => exact Laws.RowOpcode.eReset.1
  | eHead => exact Laws.RowOpcode.eHead.1
  | eBit value => exact (Laws.RowOpcode.eBit value).1
  | eEnd => exact Laws.RowOpcode.eEnd.1
  | eBuild address command => exact (Laws.RowOpcode.eBuild address command).1
  | eResult => exact Laws.RowOpcode.eResult.1
  | dCfg clkHz marginUs ext inv => exact (Laws.RowOpcode.dCfg clkHz marginUs ext inv).1
  | dInput ref length => exact (Laws.RowOpcode.dInput ref length).1
  | dDecode => exact Laws.RowOpcode.dDecode.1

/-- Settles O1: the encoded word has the command's opcode and holds its operands. -/
theorem decodeOfEncodeIsTheCommand : Obligations.DecodeOfEncodeIsTheCommand := fun i =>
  decode_of_readFrom (opcodeOf_encode i) (readFrom_encode i)

/-! ## Opcode and operands are the whole word (R85) -/

/-- Two words agree on their low `n` bits. -/
def AgreeBelow (n : Nat) (v w : CommandWord) : Prop := ∀ k < n, v.getLsbD k = w.getLsbD k

section
variable {v w : CommandWord} {lo : Nat}

theorem agreeBelow_zero : AgreeBelow 0 v w := fun _ hk => absurd hk (Nat.not_lt_zero _)

/-- Words that agree below a field and on the field agree below its end. -/
theorem AgreeBelow.field (h : AgreeBelow lo v w) {n : Nat} (hf : v.extractLsb' lo n = w.extractLsb' lo n) :
    AgreeBelow (lo + n) v w := by
  intro k hk
  by_cases hlo : k < lo
  · exact h k hlo
  · have hbit := congrArg (fun f => f.getLsbD (k - lo)) hf
    simpa [BitVec.getLsbD_extractLsb', show k - lo < n by omega, Nat.add_sub_cancel' (not_lt.1 hlo)] using hbit

/-- Words that agree below a bit and on the bit agree below the next. -/
theorem AgreeBelow.bit (h : AgreeBelow lo v w) (hb : v.getLsbD lo = w.getLsbD lo) : AgreeBelow (lo + 1) v w := by
  intro k hk
  obtain hlt | rfl := Nat.lt_succ_iff_lt_or_eq.1 hk
  · exact h k hlt
  · exact hb

/-- A command's words agree below the opcode: its operands and the zero bits above them are the whole payload. -/
theorem agreeBelow_of_readFrom {i : Instr} (hv : i.ReadFrom v) (hw : i.ReadFrom w) : AgreeBelow 60 v w := by
  have zero := @agreeBelow_zero v w
  cases i with
  | eReset | eHead | eEnd | eResult | dDecode => exact zero.field (Eq.trans hv (Eq.symm hw))
  | eCfg | dCfg =>
    obtain ⟨hclk, hcount, hext, hinv, hzeros⟩ := hv
    obtain ⟨hclk', hcount', hext', hinv', hzeros'⟩ := hw
    exact ((((zero.field (hclk.symm.trans hclk')).field (hcount.symm.trans hcount')).bit (hext.symm.trans hext')).bit
      (hinv.symm.trans hinv')).field (hzeros.trans hzeros'.symm)
  | eBit =>
    obtain ⟨hvalue, hzeros⟩ := hv
    obtain ⟨hvalue', hzeros'⟩ := hw
    exact (zero.bit (hvalue.symm.trans hvalue')).field (hzeros.trans hzeros'.symm)
  | eBuild | dInput =>
    obtain ⟨hlow, hhigh, hzeros⟩ := hv
    obtain ⟨hlow', hhigh', hzeros'⟩ := hw
    exact ((zero.field (hlow.symm.trans hlow')).field (hhigh.symm.trans hhigh')).field (hzeros.trans hzeros'.symm)

/-- So two words that decode to one command are one word. -/
theorem eq_of_decode_eq {i : Instr} (hv : decode v = .ok i) (hw : decode w = .ok i) : v = w := by
  obtain ⟨hvop, hv⟩ := decode_eq_ok_iff.1 hv
  obtain ⟨hwop, hw⟩ := decode_eq_ok_iff.1 hw
  exact BitVec.eq_of_getLsbD_eq ((agreeBelow_of_readFrom hv hw).field (hvop.trans hwop.symm))

end

/-- Settles O2: the word and the encoding decode to the same command. -/
theorem encodeOfDecodeIsTheWord : Obligations.EncodeOfDecodeIsTheWord := fun _ i h =>
  eq_of_decode_eq (decodeOfEncodeIsTheCommand i) h

/-! ## The match and mask table (R80) -/

/-- How many payload bits a command's format uses (R79). -/
def Instr.payloadBits : Instr → Nat
  | .eCfg _ _ _ _ | .dCfg _ _ _ _ => 50
  | .eBit _ => 1
  | .eBuild _ _ => 48
  | .dInput _ _ => 32
  | .eReset | .eHead | .eEnd | .eResult | .dDecode => 0

/-- The payload bits from `lo` up are 0. -/
theorem zeroFrom_iff {lo : Nat} {cw : CommandWord} :
    zeroFrom lo cw = true ↔ ∀ k, lo ≤ k → k < 60 → cw.getLsbD k = false := by
  rw [zeroFrom, beq_iff_eq]
  refine ⟨fun h k hlo hk => ?_, fun h => BitVec.eq_of_getLsbD_eq fun k hk => ?_⟩
  · have hbit := congrArg (fun f => f.getLsbD (k - lo)) h
    simpa [BitVec.getLsbD_extractLsb', show k - lo < 60 - lo by omega, Nat.add_sub_cancel' hlo] using hbit
  · simp [hk, h (lo + k) (by omega) (by omega)]

/-- A mask of every bit from `lo` up tests the opcode and the zero bits below it. -/
theorem and_mask_eq_iff {lo : Nat} (hlo : lo ≤ 60) {cw mask pattern : CommandWord} {op : BitVec 4}
    (hmask : mask = BitVec.allOnes 64 <<< lo) (hpattern : pattern = fieldAt 60 op) :
    cw &&& mask = pattern ↔ opcodeOf cw = op ∧ zeroFrom lo cw = true := by
  have masked (k : Nat) (hk : k < 64) : (cw &&& mask).getLsbD k = (cw.getLsbD k && decide (lo ≤ k)) := by
    rw [hmask, BitVec.getLsbD_and, BitVec.getLsbD_shiftLeft, BitVec.getLsbD_allOnes]
    obtain hlt | hle := Nat.lt_or_ge k lo
    · simp [hlt, not_le.2 hlt]
    · simp [hle, hk, not_lt.2 hle, show k - lo < 64 by omega]
  rw [zeroFrom_iff]
  constructor
  · intro h
    have bit (k : Nat) (hk : k < 64) (hlk : lo ≤ k) : cw.getLsbD k = (decide (60 ≤ k) && op.getLsbD (k - 60)) := by
      have := masked k hk
      rw [h, hpattern, getLsbD_fieldAt _ _ hk] at this
      simpa [hlk] using this.symm
    refine ⟨BitVec.eq_of_getLsbD_eq fun k hk => ?_, fun k hlk hk => ?_⟩
    · rw [opcodeOf, BitVec.getLsbD_extractLsb', bit (60 + k) (by omega) (by omega)]
      simp [hk]
    · rw [bit k (by omega) hlk]
      simp [hk]
  · rintro ⟨rfl, hzero⟩
    refine BitVec.eq_of_getLsbD_eq fun k hk => ?_
    rw [masked k hk, hpattern, getLsbD_fieldAt _ _ hk, opcodeOf, BitVec.getLsbD_extractLsb']
    by_cases h60 : 60 ≤ k
    · simp [h60, show k - 60 < 4 by omega, show lo ≤ k by omega]
    · by_cases hlk : lo ≤ k
      · simp [h60, hlk, hzero k hlk (by omega)]
      · simp [h60, hlk]

theorem payloadBits_le (i : Instr) : i.payloadBits ≤ 60 := by cases i <;> simp [Instr.payloadBits]

/-- Its mask is every bit above the payload bits the format uses. -/
theorem row_mask (i : Instr) : i.row.mask = BitVec.allOnes 64 <<< i.payloadBits := by
  cases i <;> (simp only [Instr.row, Instr.payloadBits]; decide)

/-- A command's row tests its opcode and the zero bits of its format. -/
theorem row_selects_iff (i : Instr) (cw : CommandWord) :
    cw &&& i.row.mask = i.row.pattern ↔ opcodeOf cw = i.opcode ∧ zeroFrom i.payloadBits cw = true :=
  and_mask_eq_iff (payloadBits_le i) (row_mask i) (row_pattern i)

/-- A word that holds a command's operands has the zero bits of its format. -/
theorem zeroFrom_of_readFrom {cw : CommandWord} {i : Instr} (h : i.ReadFrom cw) : zeroFrom i.payloadBits cw = true := by
  refine beq_iff_eq.2 ?_
  cases i with
  | eReset | eHead | eEnd | eResult | dDecode => exact h
  | eCfg | dCfg => obtain ⟨-, -, -, -, hzeros⟩ := h; exact hzeros
  | eBit => obtain ⟨-, hzeros⟩ := h; exact hzeros
  | eBuild | dInput => obtain ⟨-, -, hzeros⟩ := h; exact hzeros

/-- The row of a legal word's command selects the word. -/
theorem row_selects_of_decode {cw : CommandWord} {i : Instr} (h : decode cw = .ok i) :
    cw &&& i.row.mask = i.row.pattern := by
  obtain ⟨hop, hread⟩ := decode_eq_ok_iff.1 h
  exact (row_selects_iff i cw).2 ⟨hop, zeroFrom_of_readFrom hread⟩

/-- A word that a command's row selects decodes to that command with the operands it holds. -/
theorem decode_of_row_selects {cw : CommandWord} {i : Instr} (h : cw &&& i.row.mask = i.row.pattern)
    (hread : cw.extractLsb' i.payloadBits (60 - i.payloadBits) = 0 → i.ReadFrom cw) : decode cw = .ok i := by
  obtain ⟨hop, hzeros⟩ := (row_selects_iff i cw).1 h
  exact decode_of_readFrom hop (hread (eq_of_beq hzeros))

/-- Settles O3: a row selects the words with its command's opcode and zero bits, whatever operands they hold. -/
theorem matchAndMaskSelectCommands : Obligations.MatchAndMaskSelectCommands := by
  refine fun cw => ⟨⟨fun ⟨_, _, _, _, h⟩ => row_selects_of_decode h, fun h => ?_⟩, ⟨row_selects_of_decode, fun h => ?_⟩,
    ⟨row_selects_of_decode, fun h => ?_⟩, ⟨fun ⟨_, h⟩ => row_selects_of_decode h, fun h => ?_⟩,
    ⟨row_selects_of_decode, fun h => ?_⟩, ⟨fun ⟨_, _, h⟩ => row_selects_of_decode h, fun h => ?_⟩,
    ⟨row_selects_of_decode, fun h => ?_⟩, ⟨fun ⟨_, _, _, _, h⟩ => row_selects_of_decode h, fun h => ?_⟩,
    ⟨fun ⟨_, _, h⟩ => row_selects_of_decode h, fun h => ?_⟩, ⟨row_selects_of_decode, fun h => ?_⟩⟩
  · exact ⟨_, _, _, _, decode_of_row_selects (i := .eCfg ..) h fun hzeros => ⟨rfl, rfl, rfl, rfl, hzeros⟩⟩
  · exact decode_of_row_selects (i := .eReset) h id
  · exact decode_of_row_selects (i := .eHead) h id
  · exact ⟨_, decode_of_row_selects (i := .eBit _) h fun hzeros => ⟨rfl, hzeros⟩⟩
  · exact decode_of_row_selects (i := .eEnd) h id
  · exact ⟨_, _, decode_of_row_selects (i := .eBuild ..) h fun hzeros => ⟨rfl, rfl, hzeros⟩⟩
  · exact decode_of_row_selects (i := .eResult) h id
  · exact ⟨_, _, _, _, decode_of_row_selects (i := .dCfg ..) h fun hzeros => ⟨rfl, rfl, rfl, rfl, hzeros⟩⟩
  · exact ⟨_, _, decode_of_row_selects (i := .dInput ..) h fun hzeros => ⟨rfl, rfl, hzeros⟩⟩
  · exact decode_of_row_selects (i := .dDecode) h id

/-- The table has a row for every command. -/
theorem row_mem_opcodeTable (i : Instr) : i.row ∈ opcodeTable := by cases i <;> simp [opcodeTable, Instr.row]

/-- Settles O6: each word is evaluated. -/
theorem spelledOutWordsDecode : Obligations.SpelledOutWordsDecode := by
  unfold Obligations.SpelledOutWordsDecode
  decide

end Sys2Proof

namespace Sys2Proof.Machine

/-! ## A step does the oldest thing issued (R30, R78, R85) -/

/-- A step with something issued takes it off the list and does it. -/
theorem step_of_pending {s : State} {a : HostAction} {rest : List HostAction} (h : s.pending = a :: rest) :
    step s = runAction a (s.withPending rest) := by
  simp only [step, takeNext, h]

/-- Settles O9: the action is the command word, and running it is executing what it decodes to. -/
theorem stepRunsTheDecodedCommand : Obligations.StepRunsTheDecodedCommand := by
  intro s cw rest i hpending hdecode
  rw [step_of_pending hpending, runAction, runCommand, hdecode]
  rfl

/-- Settles O5: a word that no row selects decodes to no command. -/
theorem illegalWordIsAnsweredInvalidArgument : Obligations.IllegalWordIsAnsweredInvalidArgument := by
  intro s cw rest hpending hno
  rw [step_of_pending hpending, runAction, runCommand]
  cases hdecode : decode cw with
  | ok i => exact absurd (row_selects_of_decode hdecode) (hno _ (row_mem_opcodeTable i))
  | error e =>
    simp only [runIllegal, raiseError_eq, routeOf]
    split <;> rfl

end Sys2Proof.Machine
end

section
/-! SUPPORT. What a command can do, said once for each sub-block: ENC or DEC after it and its response, as a relation that
names every branch. What the commands leave unchanged, what they answer, and that the two sub-blocks' commands commute
(spec/20_memory.md rule R69, spec/60_exceptions.md rules R200, R201). -/

namespace Sys2Proof.Machine

variable {s t : State} {i : Instr}

/-! ## The encoder's commands -/

/-- An emitting command, past its validation, appends these entries to ENC at `start` (R124 to R126, R134). -/
inductive EmitsFrom (e : Enc) : Instr → List Entry → Enc → Prop
  | head : EmitsFrom e .eHead [headWord e.profile] e
  | bit (value : Bool) : EmitsFrom e (.eBit value) [bitWord e.profile value] e
  | ending : EmitsFrom e .eEnd [endWord e.profile, terminator] e
  | frame {a : Address} {c : Command} (hvalid : e.profile.ext = true ∨ redundant a c = true) :
      EmitsFrom e (.eBuild a c) (frameWords e.profile a c) (e.withCursor 0)

/-- A command of ENC turns `e` into this ENC and answers this response. -/
inductive EncDoes (e : Enc) : Instr → Enc → Response → Prop
  | constructed {clkHz : BitVec 32} {cap : Count} (ext inv : Bool) (hcap : cap ≠ 0) (hclk : clkHz ≠ 0) :
      EncDoes e (.eCfg clkHz cap ext inv) (encConstructed clkHz cap ext inv) (.ok .empty)
  | badOperand {clkHz : BitVec 32} {cap : Count} (ext inv : Bool) (h : cap = 0 ∨ clkHz = 0) :
      EncDoes e (.eCfg clkHz cap ext inv) e (.fail .invalidArgument)
  | unconfigured {i : Instr} (hi : i.isConfig = false) (hb : i.block = .enc) (hs : e.configured = false) :
      EncDoes e i e (.fail .invalidArgument)
  | reset (hs : e.configured = true) : EncDoes e .eReset (e.withCursor 0) (.ok .empty)
  | result (hs : e.configured = true) : EncDoes e .eResult e (.ok (.count e.cursor))
  | mismatch {a : Address} {c : Command} (hs : e.configured = true) (hext : e.profile.ext = false)
      (hcode : redundant a c = false) : EncDoes e (.eBuild a c) (e.withCursor 0) (.fail .protocolMismatch)
  | appended {i : Instr} {ws : List Entry} {start e' : Enc} (hs : e.configured = true)
      (hr : representable e.profile.ticks = true) (hi : EmitsFrom e i ws start) (ha : appendAll ws start = .done e') :
      EncDoes e i e' (.ok .empty)
  | overflowed {i : Instr} {ws : List Entry} {start e' : Enc} (hs : e.configured = true)
      (hr : representable e.profile.ticks = true) (hi : EmitsFrom e i ws start)
      (ha : appendAll ws start = .overflow e') : EncDoes e i e' (.fail .bufferOverflow)

/-- Only the cursor of ENC has changed when the appends begin. -/
theorem EmitsFrom.start_eq {e start : Enc} {ws : List Entry} (h : EmitsFrom e i ws start) :
    start = e.withCursor start.cursor := by
  cases h <;> rfl

/-- So the profile is the one the command found. -/
theorem EmitsFrom.profile_eq {e start : Enc} {ws : List Entry} (h : EmitsFrom e i ws start) :
    start.profile = e.profile := by
  rw [h.start_eq, Enc.withCursor_profile]

/-- An emitting command is the tail with its entries. -/
theorem exec_of_emitsFrom {ws : List Entry} {start : Enc} (hs : s.enc.configured = true)
    (h : EmitsFrom s.enc i ws start) : exec i s = emit ws (s.withEnc start) := by
  cases h with
  | head => exact exec_eHead hs
  | bit value => exact exec_eBit value hs
  | ending => exact exec_eEnd hs
  | frame hvalid => exact exec_eBuild_valid hs hvalid

/-- The relation is what the command does. -/
theorem exec_of_encDoes {e : Enc} {r : Response} (h : EncDoes s.enc i e r) :
    exec i s = .next ((s.withEnc e).respond .enc r) := by
  cases h with
  | constructed ext inv hcap hclk => exact exec_eCfg_ok hcap hclk
  | badOperand ext inv h => exact exec_eCfg_rejected h
  | unconfigured hi hb hs => exact exec_enc_of_unconfigured hi hb hs
  | reset hs => exact exec_eReset hs
  | result hs => exact exec_eResult hs
  | mismatch hs hext hcode => exact exec_eBuild_rejected hs hext hcode
  | appended hs hr hi ha => exact (exec_of_emitsFrom hs hi).trans (emit_done (hi.profile_eq ▸ hr) ha)
  | overflowed hs hr hi ha => exact (exec_of_emitsFrom hs hi).trans (emit_overflow (hi.profile_eq ▸ hr) ha)

/-- An emitting command does something, unless a template does not fit. -/
theorem encDoes_of_emitsFrom {ws : List Entry} {start : Enc} (hs : s.enc.configured = true)
    (h : EmitsFrom s.enc i ws start) : (∃ e r, EncDoes s.enc i e r) ∨ exec i s = .refused .unrepresentable := by
  cases hr : representable s.enc.profile.ticks with
  | false =>
    exact .inr ((exec_of_emitsFrom hs h).trans (emit_refused (h.profile_eq ▸ hr)))
  | true =>
    cases ha : appendAll ws start with
    | done e => exact .inl ⟨e, _, .appended hs hr h ha⟩
    | overflow e => exact .inl ⟨e, _, .overflowed hs hr h ha⟩

/-- The relation has every branch: a command of ENC does one of these, or is refused (R128). -/
theorem encDoes_or_refused (s : State) (hb : i.block = .enc) :
    (∃ e r, EncDoes s.enc i e r) ∨ exec i s = .refused .unrepresentable := by
  cases hi : i.isConfig with
  | true =>
    cases i with
    | eCfg clkHz cap ext inv =>
      by_cases h : cap = 0 ∨ clkHz = 0
      · exact .inl ⟨_, _, .badOperand ext inv h⟩
      · rw [not_or] at h
        exact .inl ⟨_, _, .constructed ext inv h.1 h.2⟩
    | dCfg => cases hb
    | eReset | eHead | eBit | eEnd | eBuild | eResult | dInput | dDecode => cases hi
  | false =>
    cases hs : s.enc.configured with
    | false => exact .inl ⟨_, _, .unconfigured hi hb hs⟩
    | true =>
      cases i with
      | eReset => exact .inl ⟨_, _, .reset hs⟩
      | eHead => exact encDoes_of_emitsFrom hs .head
      | eBit value => exact encDoes_of_emitsFrom hs (.bit value)
      | eEnd => exact encDoes_of_emitsFrom hs .ending
      | eBuild a c =>
        by_cases hvalid : s.enc.profile.ext = true ∨ redundant a c = true
        · exact encDoes_of_emitsFrom hs (.frame hvalid)
        · rw [not_or, Bool.not_eq_true, Bool.not_eq_true] at hvalid
          exact .inl ⟨_, _, .mismatch hs hvalid.1 hvalid.2⟩
      | eResult => exact .inl ⟨_, _, .result hs⟩
      | eCfg => cases hi
      | dCfg | dInput | dDecode => cases hb

/-- So the next state after a command of ENC is one of these. -/
theorem exec_enc_next (hb : i.block = .enc) (h : exec i s = .next t) :
    ∃ e r, EncDoes s.enc i e r ∧ t = (s.withEnc e).respond .enc r := by
  obtain ⟨e, r, hdoes⟩ | href := encDoes_or_refused s hb
  · rw [exec_of_encDoes hdoes] at h
    cases h
    exact ⟨e, r, hdoes, rfl⟩
  · rw [href] at h
    cases h

/-! ## The decoder's commands -/

/-- A command of DEC that finds DEC at `d`, these words in the stored sequence and this many draws done turns them into
this DEC and this many draws, and answers this response. -/
inductive DecDoes (d : Dec) (words : Nat → Entry) (draws : Nat) : Instr → Dec → Nat → Response → Prop
  | constructed {clkHz : BitVec 32} (marginUs : BitVec 16) (ext inv : Bool) (hclk : clkHz ≠ 0) :
      DecDoes d words draws (.dCfg clkHz marginUs ext inv) (decConstructed clkHz marginUs ext inv) draws (.ok .empty)
  | badOperand {clkHz : BitVec 32} (marginUs : BitVec 16) (ext inv : Bool) (hclk : clkHz = 0) :
      DecDoes d words draws (.dCfg clkHz marginUs ext inv) d draws (.fail .invalidArgument)
  | unconfigured {i : Instr} (hi : i.isConfig = false) (hb : i.block = .dec) (hs : d.configured = false) :
      DecDoes d words draws i d draws (.fail .invalidArgument)
  | nullInput {ref : Handle} (length : Count) (hs : d.configured = true) (href : ref = 0) :
      DecDoes d words draws (.dInput ref length) d draws (.fail .invalidArgument)
  | mismatch {ref : Handle} {length : Count} (hs : d.configured = true) (href : ref ≠ 0) (hlen : length ≠ 50) :
      DecDoes d words draws (.dInput ref length) (d.withInput 0 0) draws (.fail .lengthMismatch)
  | stored {ref : Handle} {length : Count} (hs : d.configured = true) (href : ref ≠ 0) (hlen : length = 50) :
      DecDoes d words draws (.dInput ref length) (d.withInput ref 50) draws (.ok .empty)
  | noReference (hs : d.configured = true) (href : d.ref = 0) :
      DecDoes d words draws .dDecode d draws (.fail .invalidArgument)
  | noFrame (hs : d.configured = true) (href : d.ref ≠ 0) (hframe : decodeFrame d.profile words = none) :
      DecDoes d words draws .dDecode d (draws + 1) (.fail .decodeFailure)
  | decoded {data : FrameData} (hs : d.configured = true) (href : d.ref ≠ 0)
      (hframe : decodeFrame d.profile words = some data) :
      DecDoes d words draws .dDecode (d.withLast (addressOf data) (commandOf data)) (draws + 1)
        (.ok (.scan { address := addressOf data, command := commandOf data, isRepeat := false }))

/-- The relation is what the command does. -/
theorem exec_of_decDoes {d : Dec} {n : Nat} {r : Response}
    (h : DecDoes s.dec (rxWord s s.dec.ref) s.rxDraws i d n r) :
    exec i s = .next { s with dec := d, rxDraws := n, decRsp := some r } := by
  cases h with
  | constructed marginUs ext inv hclk => exact exec_dCfg_ok hclk
  | badOperand marginUs ext inv hclk => exact exec_dCfg_rejected hclk
  | unconfigured hi hb hs => exact exec_dec_of_unconfigured hi hb hs
  | nullInput length hs href => exact exec_dInput_null length hs href
  | mismatch hs href hlen => exact exec_dInput_mismatch hs href hlen
  | stored hs href hlen => exact exec_dInput_stores hs href hlen
  | noReference hs href => exact exec_dDecode_null hs href
  | noFrame hs href hframe => exact exec_dDecode_failure hs href hframe
  | decoded hs href hframe => exact exec_dDecode_ok hs href hframe

/-- The relation has every branch: a command of DEC does one of these. -/
theorem exists_decDoes (d : Dec) (words : Nat → Entry) (draws : Nat) (hb : i.block = .dec) :
    ∃ d' n r, DecDoes d words draws i d' n r := by
  cases hi : i.isConfig with
  | true =>
    cases i with
    | dCfg clkHz marginUs ext inv =>
      by_cases hclk : clkHz = 0
      · exact ⟨_, _, _, .badOperand marginUs ext inv hclk⟩
      · exact ⟨_, _, _, .constructed marginUs ext inv hclk⟩
    | eCfg => cases hb
    | eReset | eHead | eBit | eEnd | eBuild | eResult | dInput | dDecode => cases hi
  | false =>
    cases hs : d.configured with
    | false => exact ⟨_, _, _, .unconfigured hi hb hs⟩
    | true =>
      cases i with
      | dInput ref length =>
        by_cases href : ref = 0
        · exact ⟨_, _, _, .nullInput length hs href⟩
        · by_cases hlen : length = 50
          · exact ⟨_, _, _, .stored hs href hlen⟩
          · exact ⟨_, _, _, .mismatch hs href hlen⟩
      | dDecode =>
        by_cases href : d.ref = 0
        · exact ⟨_, _, _, .noReference hs href⟩
        · cases hframe : decodeFrame d.profile words with
          | none => exact ⟨_, _, _, .noFrame hs href hframe⟩
          | some data => exact ⟨_, _, _, .decoded hs href hframe⟩
      | dCfg => cases hi
      | eCfg | eReset | eHead | eBit | eEnd | eBuild | eResult => cases hb

/-- So the next state after a command of DEC is one of these. -/
theorem exec_dec_next (hb : i.block = .dec) (h : exec i s = .next t) :
    ∃ d n r, DecDoes s.dec (rxWord s s.dec.ref) s.rxDraws i d n r ∧
      t = { s with dec := d, rxDraws := n, decRsp := some r } := by
  obtain ⟨d, n, r, hdoes⟩ := exists_decDoes s.dec (rxWord s s.dec.ref) s.rxDraws hb
  rw [exec_of_decDoes hdoes] at h
  cases h
  exact ⟨d, n, r, hdoes, rfl⟩

/-- A command has a next state or is refused because a template does not fit: none faults (R128, U2). -/
theorem exec_next_or_refused (i : Instr) (s : State) :
    (∃ t, exec i s = .next t) ∨ i.block = .enc ∧ exec i s = .refused .unrepresentable := by
  cases hb : i.block with
  | enc =>
    obtain ⟨e, r, hdoes⟩ | href := encDoes_or_refused s hb
    · exact .inl ⟨_, exec_of_encDoes hdoes⟩
    · exact .inr ⟨rfl, href⟩
  | dec =>
    obtain ⟨d, n, r, hdoes⟩ := exists_decDoes s.dec (rxWord s s.dec.ref) s.rxDraws hb
    exact .inl ⟨_, exec_of_decDoes hdoes⟩

/-! ## What the encoder's commands leave unchanged (R50, R58) -/

/-- ENC after a run of appends, whether it ended or overflowed. -/
def Appended.enc : Appended → Enc
  | .done e => e
  | .overflow e => e

/-- A run of appends stores at the cursor and at the indices after it, one for each entry, and nowhere else. -/
theorem cellRead_appendAll {ws : List Entry} {e : Enc} {j : Nat}
    (hj : ∀ k < ws.length, j ≠ (e.cursor + BitVec.ofNat 16 k).toNat) :
    cellRead (appendAll ws e).enc.txbuf j = cellRead e.txbuf j := by
  induction ws generalizing e with
  | nil => rfl
  | cons w ws ih =>
    by_cases hroom : e.cursor = e.capacity
    · rw [appendAll_cons_full w ws hroom]; rfl
    · have hcursor : j ≠ e.cursor.toNat := by simpa using hj 0 (by simp)
      rw [appendAll_cons_room w ws hroom, ih, cellRead_write_ne _ _ hcursor]
      intro k hk
      have := hj (k + 1) (by simpa using hk)
      rwa [show e.cursor + BitVec.ofNat 16 (k + 1) = e.cursor + 1 + BitVec.ofNat 16 k by
        rw [BitVec.ofNat_add, BitVec.add_assoc, BitVec.add_comm (BitVec.ofNat 16 k)]; rfl] at this

/-- A run of appends never touches the configuration of ENC. -/
theorem appendAll_enc_keeps (ws : List Entry) (e : Enc) :
    (appendAll ws e).enc.configured = e.configured ∧ (appendAll ws e).enc.profile = e.profile ∧
      (appendAll ws e).enc.capacity = e.capacity := by
  have hkeeps := appendAll_keeps ws e
  cases ha : appendAll ws e with
  | done e' => rw [ha] at hkeeps; exact hkeeps
  | overflow e' => rw [ha] at hkeeps; exact ⟨hkeeps.1, hkeeps.2.1, hkeeps.2.2.1⟩

/-- A command of ENC other than E_CFG changes the cursor at most, or runs appends from there. -/
theorem EncDoes.cursor_or_appends {e e' : Enc} {r : Response} (h : EncDoes e i e' r) (hi : i.isConfig = false) :
    (∃ c, e' = e.withCursor c) ∨ ∃ ws start, EmitsFrom e i ws start ∧ e' = (appendAll ws start).enc := by
  cases h with
  | constructed | badOperand => cases hi
  | unconfigured | result => exact .inl ⟨e.cursor, rfl⟩
  | reset | mismatch => exact .inl ⟨0, rfl⟩
  | appended hs hr hi ha => exact .inr ⟨_, _, hi, by rw [ha]; rfl⟩
  | overflowed hs hr hi ha => exact .inr ⟨_, _, hi, by rw [ha]; rfl⟩

/-- No command of ENC but E_CFG touches its configuration. -/
theorem EncDoes.keeps_configuration {e e' : Enc} {r : Response} (h : EncDoes e i e' r) (hi : i.isConfig = false) :
    e'.configured = e.configured ∧ e'.profile = e.profile ∧ e'.capacity = e.capacity := by
  obtain ⟨c, rfl⟩ | ⟨ws, start, hemits, rfl⟩ := h.cursor_or_appends hi
  · exact ⟨rfl, rfl, rfl⟩
  · rw [hemits.start_eq]
    exact appendAll_enc_keeps ws _

/-- No command of ENC but E_CFG touches an entry at which it appends none. -/
theorem EncDoes.cellRead_eq {e e' : Enc} {r : Response} (h : EncDoes e i e' r) (hi : i.isConfig = false) {j : Nat}
    (hj : ∀ ws start, EmitsFrom e i ws start → ∀ k < ws.length, j ≠ (start.cursor + BitVec.ofNat 16 k).toNat) :
    cellRead e'.txbuf j = cellRead e.txbuf j := by
  obtain ⟨c, rfl⟩ | ⟨ws, start, hemits, rfl⟩ := h.cursor_or_appends hi
  · rfl
  · rw [cellRead_appendAll (hj ws start hemits), hemits.start_eq]
    rfl

/-- Settles O32: the next state is the old one with ENC and its port replaced, and appends store at the cursor only. -/
theorem encoderCommandsFrame : Obligations.EncoderCommandsFrame := by
  intro s t i hb h
  obtain ⟨e, r, hdoes, rfl⟩ := exec_enc_next hb h
  refine ⟨rfl, rfl, rfl, rfl, rfl, rfl, hdoes.keeps_configuration, ?_, ?_, ?_, ?_, ?_⟩
  · rintro (rfl | rfl) j <;> exact hdoes.cellRead_eq rfl fun _ _ hemits => by cases hemits
  · rintro rfl
    cases hdoes with
    | unconfigured | result => rfl
    | appended _ _ hemits | overflowed _ _ hemits => cases hemits
  · rintro (rfl | ⟨value, rfl⟩) j hj <;>
    · refine hdoes.cellRead_eq rfl fun _ _ hemits k hk => ?_
      cases hemits
      obtain rfl : k = 0 := by simpa using hk
      simpa using hj
  · rintro rfl j hj hj'
    refine hdoes.cellRead_eq rfl fun _ _ hemits k hk => ?_
    cases hemits
    obtain rfl | rfl : k = 0 ∨ k = 1 := by simp at hk; omega
    · simpa using hj
    · exact hj'
  · rintro ⟨a, c, rfl⟩ j hj
    refine hdoes.cellRead_eq rfl fun _ _ hemits k hk => ?_
    cases hemits
    rw [length_frameWords] at hk
    rw [Enc.withCursor_cursor, zero_add, BitVec.toNat_ofNat]
    omega

/-! ## What the decoder's commands leave unchanged (R37, R50) -/

/-- No command of DEC but D_CFG touches its configuration. -/
theorem DecDoes.keeps_configuration {d d' : Dec} {words : Nat → Entry} {draws n : Nat} {r : Response}
    (h : DecDoes d words draws i d' n r) (hi : i.isConfig = false) :
    d'.configured = d.configured ∧ d'.profile = d.profile := by
  cases h with
  | constructed | badOperand => cases hi
  | unconfigured | nullInput | mismatch | stored | noReference | noFrame | decoded => exact ⟨rfl, rfl⟩

/-- Settles O33: the next state is the old one with DEC, its port and the draws replaced. -/
theorem decoderCommandsFrame : Obligations.DecoderCommandsFrame := by
  intro s t i hb h
  obtain ⟨d, n, r, hdoes, rfl⟩ := exec_dec_next hb h
  refine ⟨rfl, rfl, rfl, rfl, rfl, fun _ => rfl, hdoes.keeps_configuration, ?_, ?_⟩
  · rintro ⟨ref, length, rfl⟩
    cases hdoes <;> exact ⟨rfl, rfl⟩
  · rintro rfl
    cases hdoes <;> exact ⟨rfl, rfl⟩

/-! ## What a command answers (R82, R84, R200, R201) -/

/-- Settles O43: each branch of a command answers one status. -/
theorem errorsEachCommandCanRaise : Obligations.ErrorsEachCommandCanRaise := by
  intro s t i e h hfail
  cases hb : i.block with
  | enc =>
    obtain ⟨e', r, hdoes, rfl⟩ := exec_enc_next hb h
    obtain rfl : r = .fail e := by simpa [hb] using hfail
    cases hdoes with
    | badOperand | unconfigured => exact .inl rfl
    | mismatch => exact .inr (.inl ⟨rfl, _, _, rfl⟩)
    | overflowed _ _ hemits =>
      refine .inr (.inr (.inl ⟨rfl, ?_⟩))
      cases hemits with
      | head => exact .inl rfl
      | bit value => exact .inr (.inl ⟨value, rfl⟩)
      | ending => exact .inr (.inr (.inl rfl))
      | frame => exact .inr (.inr (.inr ⟨_, _, rfl⟩))
  | dec =>
    obtain ⟨d, n, r, hdoes, rfl⟩ := exec_dec_next hb h
    obtain rfl : r = .fail e := by simpa [hb] using hfail
    cases hdoes with
    | badOperand | unconfigured | nullInput | noReference => exact .inl rfl
    | mismatch => exact .inr (.inr (.inr (.inl ⟨rfl, _, _, rfl⟩)))
    | noFrame => exact .inr (.inr (.inr (.inr ⟨rfl, rfl⟩)))

/-- A success of ENC has a count for E_RESULT and no data otherwise. -/
theorem EncDoes.data {e e' : Enc} {data : ResponseData} (h : EncDoes e i e' (.ok data)) :
    (i = .eResult ∧ ∃ n, data = .count n) ∨ (i ≠ .eResult ∧ i ≠ .dDecode ∧ data = .empty) := by
  cases h with
  | constructed | reset => exact .inr ⟨nofun, nofun, rfl⟩
  | result => exact .inl ⟨rfl, _, rfl⟩
  | appended _ _ hemits => cases hemits <;> exact .inr ⟨nofun, nofun, rfl⟩

/-- A success of DEC has a scan code without `repeat` for D_DECODE and no data otherwise. -/
theorem DecDoes.data {d d' : Dec} {words : Nat → Entry} {draws n : Nat} {data : ResponseData}
    (h : DecDoes d words draws i d' n (.ok data)) :
    (i = .dDecode ∧ ∃ a c, data = .scan { address := a, command := c, isRepeat := false }) ∨
      (i ≠ .eResult ∧ i ≠ .dDecode ∧ data = .empty) := by
  cases h with
  | constructed | stored => exact .inr ⟨nofun, nofun, rfl⟩
  | decoded => exact .inl ⟨rfl, _, _, rfl⟩

/-- Settles O44: the next state carries one response on the command's own port, and each branch names its data. -/
theorem everyCommandAnswersOnce : Obligations.EveryCommandAnswersOnce := by
  refine fun s i => ⟨fun f hf => ?_, fun t h => ?_⟩
  · obtain ⟨t, ht⟩ | ⟨-, href⟩ := exec_next_or_refused i s
    · rw [ht] at hf; cases hf
    · rw [href] at hf; cases hf
  · cases hb : i.block with
    | enc =>
      obtain ⟨e, r, hdoes, rfl⟩ := exec_enc_next hb h
      refine ⟨r, rfl, fun b hne => ?_, ?_⟩
      · cases b with
        | enc => exact absurd rfl hne
        | dec => rfl
      · rintro data rfl
        exact hdoes.data.imp id .inr
    | dec =>
      obtain ⟨d, n, r, hdoes, rfl⟩ := exec_dec_next hb h
      refine ⟨r, rfl, fun b hne => ?_, ?_⟩
      · cases b with
        | enc => rfl
        | dec => exact absurd rfl hne
      · rintro data rfl
        exact .inr hdoes.data

/-! ## The two sub-blocks' commands commute (R69) -/

/-- Settles O47: what a command of one sub-block does is read from parts of the state that the other's never writes. -/
theorem encoderAndDecoderCommandsCommute : Obligations.EncoderAndDecoderCommandsCommute := by
  refine fun s i j hi hj => ⟨fun u v hu hv => ?_, fun r v hr hv => ?_⟩
  · obtain ⟨e, re, hedoes, rfl⟩ := exec_enc_next hi hu
    obtain ⟨d, n, rd, hddoes, rfl⟩ := exec_dec_next hj hv
    exact ⟨_, exec_of_decDoes hddoes, exec_of_encDoes hedoes⟩
  · obtain ⟨d, n, rd, -, rfl⟩ := exec_dec_next hj hv
    have refused_of_enc_eq {s' : State} (henc : s'.enc = s.enc) : exec i s' = .refused .unrepresentable := by
      obtain ⟨e, re, hdoes⟩ | href := encDoes_or_refused s' hi
      · rw [henc] at hdoes
        rw [exec_of_encDoes hdoes] at hr
        cases hr
      · exact href
    rw [refused_of_enc_eq rfl] at hr
    cases hr
    exact refused_of_enc_eq rfl

end Sys2Proof.Machine
end

section
/-! SUPPORT. The invariant (spec/10_state.md): it holds at reset and every step keeps it. What it says of the populated
sequence and of the state after each failure. -/

namespace Sys2Proof.Machine

variable {s t : State} {i : Instr}

/-! ## ENC -/

/-- Zeroing the cursor keeps the invariant of ENC. -/
theorem encInv_withCursor_zero {e : Enc} (h : EncInv e) : EncInv (e.withCursor 0) := by
  obtain ⟨hwf, hconf⟩ := h
  refine ⟨hwf, fun hs => ?_⟩
  obtain ⟨hcap, -, hmargin, hticks, hbelow, -⟩ := hconf hs
  exact ⟨hcap, Nat.zero_le _, hmargin, hticks, hbelow, fun j hj => absurd hj (Nat.not_lt_zero j)⟩

/-- One append with room keeps it: the stored entry is below the capacity, and the cursor passes it. -/
theorem encInv_append {e : Enc} (w : Entry) (h : EncInv e) (hroom : e.cursor ≠ e.capacity) :
    EncInv { e with txbuf := cellWrite e.txbuf e.cursor.toNat w, cursor := e.cursor + 1 } := by
  obtain ⟨hwf, hconf⟩ := h
  refine ⟨cellsWf_write hwf, fun hs => ?_⟩
  obtain ⟨hcap, hle, hmargin, hticks, hbelow, hwritten⟩ := hconf hs
  have hlt : e.cursor.toNat < e.capacity.toNat := hle.lt_of_ne fun heq => hroom (BitVec.eq_of_toNat_eq heq)
  refine ⟨hcap, ?_, hmargin, hticks, fun j v hj => ?_, fun j hj => ?_⟩
  · rw [cursor_succ hlt]
    exact hlt
  · rw [cellRead_write] at hj
    split at hj
    case isTrue heq => rw [heq]; exact hlt
    case isFalse => exact hbelow j v hj
  · rw [cursor_succ hlt] at hj
    rw [cellRead_write]
    split
    case isTrue => exact ⟨w, rfl⟩
    case isFalse hne => exact hwritten j (by omega)

/-- So does a run of appends, whether it ends or overflows. -/
theorem encInv_appendAll (ws : List Entry) {e : Enc} (h : EncInv e) : EncInv (appendAll ws e).enc := by
  induction ws generalizing e with
  | nil => exact h
  | cons w ws ih =>
    by_cases hroom : e.cursor = e.capacity
    · rw [appendAll_cons_full w ws hroom]
      exact encInv_withCursor_zero h
    · rw [appendAll_cons_room w ws hroom]
      exact ih (encInv_append w h hroom)

/-- A newly constructed ENC has the ticks of its clock, and no entry is written or populated. -/
theorem encInv_encConstructed {clkHz : BitVec 32} {cap : Count} (ext inv : Bool) (hcap : cap ≠ 0) (hclk : clkHz ≠ 0) :
    EncInv (encConstructed clkHz cap ext inv) := by
  exact ⟨rfl, fun _ => ⟨BitVec.toNat_pos_of_ne_zero hcap, Nat.zero_le _, rfl, ⟨clkHz, hclk, rfl⟩, nofun,
    fun j hj => absurd hj (Nat.not_lt_zero j)⟩⟩

/-- The appends of an emitting command begin at an ENC that meets the invariant. -/
theorem EmitsFrom.encInv {e start : Enc} {ws : List Entry} (hi : EmitsFrom e i ws start) (h : EncInv e) :
    EncInv start := by
  cases hi with
  | head | bit | ending => exact h
  | frame => exact encInv_withCursor_zero h

/-- Every command of ENC keeps its invariant. -/
theorem EncDoes.keeps_encInv {e e' : Enc} {r : Response} (hdoes : EncDoes e i e' r) (h : EncInv e) : EncInv e' := by
  cases hdoes with
  | constructed ext inv hcap hclk => exact encInv_encConstructed ext inv hcap hclk
  | badOperand | unconfigured | result => exact h
  | reset | mismatch => exact encInv_withCursor_zero h
  | @appended _ ws _ _ _ _ hi ha | @overflowed _ ws _ _ _ _ hi ha =>
    have hrun := encInv_appendAll ws (hi.encInv h)
    rwa [ha] at hrun

/-! ## DEC -/

/-- Every command of DEC keeps its invariant: D_CFG sets one clock's ticks and margin, D_INPUT stores 50 with a reference
or clears both. -/
theorem DecDoes.keeps_decInv {d d' : Dec} {words : Nat → Entry} {draws n : Nat} {r : Response}
    (hdoes : DecDoes d words draws i d' n r) (h : DecInv d) : DecInv d' := by
  cases hdoes with
  | constructed marginUs ext inv hclk => exact fun _ => ⟨⟨_, marginUs, hclk, rfl, rfl⟩, .inl ⟨rfl, rfl⟩⟩
  | badOperand | unconfigured | nullInput | noReference | noFrame => exact h
  | mismatch hs => exact fun _ => ⟨(h hs).1, .inl ⟨rfl, rfl⟩⟩
  | stored hs href => exact fun _ => ⟨(h hs).1, .inr ⟨href, rfl⟩⟩
  | decoded hs => exact fun _ => h hs

/-! ## Commands, host actions and steps -/

/-- The invariant survives a response that is no scan code with `repeat` set. -/
theorem State.Inv.respond (h : s.Inv) (b : SubBlock) {r : Response}
    (hr : ∀ code, r = .ok (.scan code) → code.isRepeat = false) : (s.respond b r).Inv := by
  obtain ⟨henc, hdec, hrx, hrepeat⟩ := h
  refine ⟨by rwa [State.respond_enc], by rwa [State.respond_dec], by cases b <;> exact hrx, fun c code hc => ?_⟩
  rw [State.response_respond] at hc
  split at hc
  · exact hr code (Option.some.inj hc)
  · exact hrepeat c code hc

/-- Every command keeps the invariant. -/
theorem exec_keeps_inv (hinv : s.Inv) (h : exec i s = .next t) : t.Inv := by
  obtain ⟨henc, hdec, hrx, hrepeat⟩ := hinv
  cases hb : i.block with
  | enc =>
    obtain ⟨e, r, hdoes, rfl⟩ := exec_enc_next hb h
    have hwith : (s.withEnc e).Inv := ⟨hdoes.keeps_encInv henc, hdec, hrx, hrepeat⟩
    refine hwith.respond .enc fun code hr => ?_
    subst hr
    cases hdoes
  | dec =>
    obtain ⟨d, n, r, hdoes, rfl⟩ := exec_dec_next hb h
    have hwith : State.Inv { s with dec := d, rxDraws := n } := ⟨henc, hdoes.keeps_decInv hdec, hrx, hrepeat⟩
    refine hwith.respond .dec fun code hr => ?_
    subst hr
    cases hdoes
    rfl

/-- Replacing RXSEQ by a memory in its canonical form keeps the invariant. -/
theorem State.Inv.withRxseq (h : s.Inv) {m : Cells (List Entry)} (hm : rxWf m = true) : (s.withRxseq m).Inv := by
  obtain ⟨henc, hdec, -, hrepeat⟩ := h
  exact ⟨henc, hdec, hm, hrepeat⟩

/-- Placing keeps RXSEQ's canonical form. -/
theorem runRxPlace_keeps_rxWf {h : Handle} {ws : List Entry} (hrx : rxWf s.rxseq = true)
    (ht : runRxPlace h ws s = .next t) : rxWf t.rxseq = true := by
  unfold runRxPlace at ht
  split at ht
  · cases ht
  · next hh =>
    split at ht <;> cases ht
    · exact rxWf_erase hrx
    · next hws => exact rxWf_write hrx (BitVec.toNat_pos_of_ne_zero hh) (Bool.eq_false_iff.2 hws)

/-- Freeing keeps RXSEQ's canonical form. -/
theorem runRxFree_keeps_rxWf {h : Handle} (hrx : rxWf s.rxseq = true) (ht : runRxFree h s = .next t) :
    rxWf t.rxseq = true := by
  unfold runRxFree at ht
  split at ht <;> cases ht
  exact rxWf_erase hrx

/-- Every host action keeps the invariant. -/
theorem runAction_keeps_inv {a : HostAction} (hinv : s.Inv) (h : runAction a s = .next t) : t.Inv := by
  cases a with
  | command cw =>
    obtain ⟨i, -, hexec⟩ | ⟨-, rfl⟩ := runCommand_cases h
    · exact exec_keeps_inv hinv hexec
    · exact hinv.respond _ nofun
  | rxPlace handle ws =>
    have hwf := runRxPlace_keeps_rxWf hinv.2.2.1 h
    obtain ⟨m, rfl⟩ := runRxPlace_next h
    exact hinv.withRxseq hwf
  | rxFree handle =>
    have hwf := runRxFree_keeps_rxWf hinv.2.2.1 h
    obtain ⟨m, rfl⟩ := runRxFree_next h
    exact hinv.withRxseq hwf
  | txRead index =>
    obtain ⟨w, rfl⟩ := runTxRead_next h
    exact hinv

/-- Settles O55: a step idles or does one action, and every action keeps the invariant. -/
theorem stepKeepsTheInvariant : Obligations.StepKeepsTheInvariant := by
  intro s t hinv h
  obtain ⟨-, rfl⟩ | ⟨a, rest, -, ha⟩ := step_cases h
  · exact hinv
  · exact runAction_keeps_inv (s := s.withPending rest) hinv ha

/-- Settles O12: nothing is configured, written, placed or answered at reset. -/
theorem resetMeetsTheInvariant : Obligations.ResetMeetsTheInvariant := by
  refine ⟨rfl, rfl, fun _ => rfl, ⟨reset_memory_wf.1, nofun⟩, nofun, reset_memory_wf.2, fun b _ hb => ?_⟩
  cases b <;> cases hb

/-! ## The populated sequence (R42, R52) -/

/-- A read of a written entry below the capacity gives its word on the read port. -/
theorem runTxRead_written {j : Nat} {w : Entry} (hs : s.enc.configured = true) (hj : j < s.enc.capacity.toNat)
    (hw : cellRead s.enc.txbuf j = some w) : runTxRead j s = .next (s.withTxOut w) := by
  rw [runTxRead, if_pos hs, if_pos hj]
  simp only [hw]

/-- Where every entry below the cursor is written, the populated sequence is a list of words. -/
theorem populated_eq_map_some {e : Enc} (h : ∀ j < e.cursor.toNat, ∃ w, cellRead e.txbuf j = some w) :
    ∃ ws : List Entry, populated e = ws.map some ∧ ws.length = e.cursor.toNat ∧
      ∀ j w, ws[j]? = some w → j < e.cursor.toNat ∧ cellRead e.txbuf j = some w := by
  choose word hword using h
  refine ⟨List.ofFn fun j : Fin e.cursor.toNat => word j j.isLt, ?_, List.length_ofFn, fun j w hw => ?_⟩
  · refine List.ext_getElem (by simp [populated]) fun j hj _ => ?_
    have hlt : j < e.cursor.toNat := by simpa [populated] using hj
    simp [populated, hword j hlt]
  · rw [List.getElem?_ofFn] at hw
    split at hw
    case isTrue hlt => cases hw; exact ⟨hlt, hword j hlt⟩
    case isFalse => cases hw

/-- Settles O30: the invariant says that the entries below the cursor are written and below the capacity. -/
theorem populatedEntriesAreWritten : Obligations.PopulatedEntriesAreWritten := by
  rintro s ⟨⟨-, hconf⟩, -⟩ hs
  obtain ⟨-, hle, -, -, -, hwritten⟩ := hconf hs
  obtain ⟨ws, hws, hlen, hread⟩ := populated_eq_map_some hwritten
  refine ⟨ws, hws, hlen, fun j w hw => ?_⟩
  obtain ⟨hj, hcell⟩ := hread j w hw
  rw [step_of_pending rfl]
  exact runTxRead_written hs (hj.trans_le hle) hcell

/-! ## The state after each failure (R212) -/

/-- A run of appends that overflows from a cursor within the capacity is longer than the room, and leaves the entries that
fit below a zeroed cursor. -/
theorem overflow_of_appendAll {ws : List Entry} {e e' : Enc} (hle : e.cursor.toNat ≤ e.capacity.toNat)
    (ha : appendAll ws e = .overflow e') : e.capacity.toNat < e.cursor.toNat + ws.length ∧ e' =
      { e with txbuf := writeRun e.txbuf e.cursor.toNat (ws.take (e.capacity.toNat - e.cursor.toNat)), cursor := 0 } := by
  by_cases hfits : e.cursor.toNat + ws.length ≤ e.capacity.toNat
  · rw [appendAll_fits hfits] at ha
    cases ha
  · rw [appendAll_overflows hle (not_le.1 hfits)] at ha
    cases ha
    exact ⟨not_le.1 hfits, rfl⟩

/-- One append that overflows stores nothing. -/
theorem overflow_of_append_one {w : Entry} {e e' : Enc} (ha : appendAll [w] e = .overflow e') :
    e' = e.withCursor 0 := by
  by_cases hroom : e.cursor = e.capacity
  · rw [appendAll_cons_full w [] hroom] at ha
    cases ha
    rfl
  · rw [appendAll_cons_room w [] hroom] at ha
    cases ha

/-- Of two appends the first overflows and stores nothing, or the second does and the first has stored its entry at
capacity - 1. -/
theorem overflow_of_append_two {v w : Entry} {e e' : Enc} (hle : e.cursor.toNat ≤ e.capacity.toNat)
    (ha : appendAll [v, w] e = .overflow e') : (e.cursor = e.capacity ∧ e' = e.withCursor 0) ∨
      (e.cursor.toNat + 1 = e.capacity.toNat ∧
        e' = { e with txbuf := cellWrite e.txbuf (e.capacity.toNat - 1) v, cursor := 0 }) := by
  by_cases hroom : e.cursor = e.capacity
  · rw [appendAll_cons_full v [w] hroom] at ha
    cases ha
    exact .inl ⟨hroom, rfl⟩
  · have hne : e.cursor.toNat ≠ e.capacity.toNat := fun h => hroom (BitVec.eq_of_toNat_eq h)
    obtain ⟨hlong, rfl⟩ := overflow_of_appendAll hle ha
    have hlast : e.cursor.toNat + 1 = e.capacity.toNat := by
      simp only [List.length_cons, List.length_nil] at hlong
      omega
    rw [← hlast, Nat.add_sub_cancel, Nat.add_sub_cancel_left]
    exact .inr ⟨rfl, rfl⟩

/-- Settles O45: each branch that fails is a row of the table. -/
theorem stateAfterEachFailure : Obligations.StateAfterEachFailure := by
  rintro s t i err ⟨⟨-, hconf⟩, -⟩ h hfail
  cases hb : i.block with
  | enc =>
    obtain ⟨e, r, hdoes, rfl⟩ := exec_enc_next hb h
    obtain rfl : r = .fail err := by simpa [hb] using hfail
    cases hdoes with
    | badOperand | unconfigured => exact ⟨fun _ => ⟨rfl, rfl⟩, nofun, nofun, nofun, nofun, nofun, nofun, rfl⟩
    | mismatch => exact ⟨nofun, fun _ => ⟨rfl, rfl⟩, nofun, nofun, nofun, nofun, nofun, rfl⟩
    | overflowed hs _ hi ha =>
      obtain ⟨-, hle, -⟩ := hconf hs
      cases hi with
      | head | bit =>
        obtain rfl := overflow_of_append_one ha
        exact ⟨nofun, nofun, fun _ _ => ⟨rfl, rfl⟩, nofun, nofun, nofun, nofun, rfl⟩
      | ending =>
        exact ⟨nofun, nofun, nofun, fun _ _ => ⟨rfl, overflow_of_append_two hle ha⟩, nofun, nofun, nofun, rfl⟩
      | @frame a c =>
        obtain ⟨hlong, rfl⟩ := overflow_of_appendAll (Nat.zero_le _) ha
        rw [length_frameWords] at hlong
        have hcap : s.enc.capacity.toNat ≤ 51 := (hlong.trans_eq (Nat.zero_add 51)).le
        have hread := cellRead_writeRun_frame s.enc.txbuf s.enc.profile a c hcap
        refine ⟨nofun, nofun, nofun, nofun, ?_, nofun, nofun, rfl⟩
        rintro a' c' - ⟨⟩
        exact ⟨rfl, rfl, fun j hj => (hread j).trans (if_pos hj), fun j hj => (hread j).trans (if_neg (not_lt.2 hj))⟩
  | dec =>
    obtain ⟨d, n, r, hdoes, rfl⟩ := exec_dec_next hb h
    obtain rfl : r = .fail err := by simpa [hb] using hfail
    cases hdoes with
    | badOperand | unconfigured | nullInput | noReference =>
      exact ⟨fun _ => ⟨rfl, rfl⟩, nofun, nofun, nofun, nofun, nofun, nofun, rfl⟩
    | mismatch => exact ⟨nofun, nofun, nofun, nofun, nofun, fun _ => ⟨rfl, rfl⟩, nofun, rfl⟩
    | noFrame => exact ⟨nofun, nofun, nofun, nofun, nofun, nofun, fun _ => ⟨rfl, rfl⟩, rfl⟩

end Sys2Proof.Machine
end

section
/-! SUPPORT. Steps and runs: the host's other actions (spec/20_memory.md rules R51 to R53), what a step can do to a timing
profile, and that neither the list of issued actions nor the TXBUF read port bears on what an action does
(spec/70_reset_and_hazards.md rule R245). -/

namespace Sys2Proof.Machine

variable {s t : State} {i : Instr}

/-! ## Placing and freeing sequences (R53) -/

/-- RXSEQ in its form is a memory in canonical form. -/
theorem cellsWf_of_rxWf {m : Cells (List Entry)} (h : rxWf m = true) : cellsWf m = true :=
  (Bool.and_eq_true_iff.1 h).1

/-- A sequence written under one handle is read under it and under no other. -/
theorem rxEntries_write (m : Cells (List Entry)) (h g : Handle) (ws : List Entry) :
    rxEntries (cellWrite m h.toNat ws) g = if g = h then ws else rxEntries m g := by
  rw [rxEntries, cellRead_write]
  simp only [← BitVec.toNat_inj]
  split <;> rfl

/-- A handle erased names no entries, and the others keep theirs. -/
theorem rxEntries_erase {m : Cells (List Entry)} (hm : rxWf m = true) (h g : Handle) :
    rxEntries (cellErase m h.toNat) g = if g = h then [] else rxEntries m g := by
  rw [rxEntries, cellRead_erase (cellsWf_of_rxWf hm)]
  simp only [← BitVec.toNat_inj]
  split <;> rfl

/-- Placing the empty sequence unlists the handle. -/
theorem runRxPlace_nil {h : Handle} (s : State) (hh : h ≠ 0) :
    runRxPlace h [] s = .next (s.withRxseq (cellErase s.rxseq h.toNat)) := by
  rw [runRxPlace, if_neg hh, if_pos List.isEmpty_nil]

/-- Freeing a sequence unlists its handle. -/
theorem runRxFree_eq {h : Handle} (s : State) (hh : h ≠ 0) :
    runRxFree h s = .next (s.withRxseq (cellErase s.rxseq h.toNat)) := by
  rw [runRxFree, if_neg hh]

/-- The null handle names no sequence to place or free (R53). -/
theorem runRx_null (ws : List Entry) (s : State) :
    runRxPlace 0 ws s = .fault .rxNullHandle ∧ runRxFree 0 s = .fault .rxNullHandle :=
  ⟨if_pos rfl, if_pos rfl⟩

/-- Settles O10: RXSEQ after the action is a write or an erasure at the handle. -/
theorem stepRunsTheHostsOtherActions : Obligations.StepRunsTheHostsOtherActions := by
  refine ⟨fun s hpending => ?_, fun s h ws rest hpending hh hrx => ?_, fun s h rest hpending hh hrx => ?_⟩
  · rw [step, takeNext, hpending]
  · rw [step_of_pending hpending, runAction]
    cases ws with
    | nil => exact ⟨_, runRxPlace_nil _ hh, rxWf_erase hrx, rxEntries_erase hrx h⟩
    | cons w ws =>
      exact ⟨_, runRxPlace_eq _ hh (List.cons_ne_nil w ws), rxWf_write hrx (BitVec.toNat_pos_of_ne_zero hh) rfl,
        fun g => rxEntries_write s.rxseq h g _⟩
  · rw [step_of_pending hpending, runAction]
    exact ⟨_, runRxFree_eq _ hh, rxWf_erase hrx, rxEntries_erase hrx h⟩

/-! ## The TXBUF read port (R52) -/

theorem runTxRead_unwritten {j : Nat} (hs : s.enc.configured = true) (hj : j < s.enc.capacity.toNat)
    (hw : cellRead s.enc.txbuf j = none) : runTxRead j s = .fault (.txUnwritten j) := by
  rw [runTxRead, if_pos hs, if_pos hj]
  simp only [hw]

theorem runTxRead_outOfRange {j : Nat} (hs : s.enc.configured = true) (hj : s.enc.capacity.toNat ≤ j) :
    runTxRead j s = .fault (.txOutOfRange j) := by
  rw [runTxRead, if_pos hs, if_neg (not_lt.2 hj)]

theorem runTxRead_unconfigured {j : Nat} (hs : s.enc.configured = false) :
    runTxRead j s = .fault (.txUnconfigured j) :=
  if_neg (ne_true_of_eq_false hs)

/-- A read that answers is one of a written entry below the capacity of a configured ENC. -/
theorem written_of_runTxRead {j : Nat} (h : runTxRead j s = .next t) :
    s.enc.configured = true ∧ j < s.enc.capacity.toNat ∧ ∃ w, cellRead s.enc.txbuf j = some w ∧ t = s.withTxOut w := by
  cases hs : s.enc.configured with
  | false => rw [runTxRead_unconfigured hs] at h; cases h
  | true =>
    obtain hj | hj := Nat.lt_or_ge j s.enc.capacity.toNat
    · cases hw : cellRead s.enc.txbuf j with
      | none => rw [runTxRead_unwritten hs hj hw] at h; cases h
      | some w => rw [runTxRead_written hs hj hw] at h; cases h; exact ⟨rfl, hj, w, rfl, rfl⟩
    · rw [runTxRead_outOfRange hs hj] at h; cases h

/-- Settles O11: the read's branches one by one. -/
theorem txbufReadPort : Obligations.TxbufReadPort := by
  refine ⟨fun s j rest hpending => ?_, cellRead_write⟩
  rw [step_of_pending hpending]
  exact ⟨fun _ => runTxRead_written (s := s.withPending rest), runTxRead_unwritten (s := s.withPending rest),
    runTxRead_outOfRange (s := s.withPending rest), runTxRead_unconfigured (s := s.withPending rest)⟩

/-! ## Timing profiles (R23, R28, R33) -/

/-- A command of ENC keeps the profile and the capacity, or has constructed ENC anew. -/
theorem EncDoes.profile_or_constructed {e e' : Enc} {r : Response} (h : EncDoes e i e' r) :
    (e'.profile = e.profile ∧ e'.capacity = e.capacity) ∨
      ∃ clkHz cap ext inv, i = .eCfg clkHz cap ext inv ∧ e' = encConstructed clkHz cap ext inv := by
  cases hi : i.isConfig with
  | false => exact .inl (h.keeps_configuration hi).2
  | true =>
    cases h with
    | constructed ext inv => exact .inr ⟨_, _, ext, inv, rfl, rfl⟩
    | badOperand => exact .inl ⟨rfl, rfl⟩
    | unconfigured hi' => rw [hi] at hi'; cases hi'
    | reset | result | mismatch => cases hi
    | appended _ _ hemits | overflowed _ _ hemits => cases hemits <;> cases hi

/-- A command of DEC keeps the profile, or has constructed DEC anew. -/
theorem DecDoes.profile_or_constructed {d d' : Dec} {words : Nat → Entry} {draws n : Nat} {r : Response}
    (h : DecDoes d words draws i d' n r) : d'.profile = d.profile ∨
      ∃ clkHz marginUs ext inv, i = .dCfg clkHz marginUs ext inv ∧ d' = decConstructed clkHz marginUs ext inv := by
  cases h with
  | constructed marginUs ext inv => exact .inr ⟨_, marginUs, ext, inv, rfl, rfl⟩
  | badOperand | unconfigured | nullInput | mismatch | stored | noReference | noFrame | decoded => exact .inl rfl

/-- Settles O19: of all actions only the two configuration commands touch a profile, and they construct their sub-block
anew. -/
theorem profilesAreReplacedOnlyByConfiguration : Obligations.ProfilesAreReplacedOnlyByConfiguration := by
  intro s t h
  obtain ⟨-, rfl⟩ | ⟨a, rest, hpending, ha⟩ := step_cases h
  · exact ⟨.inl ⟨rfl, rfl⟩, .inl rfl⟩
  cases a with
  | command cw =>
    obtain ⟨i, hdecode, hexec⟩ | ⟨-, rfl⟩ := runCommand_cases ha
    · cases hb : i.block with
      | enc =>
        obtain ⟨e, r, hdoes, rfl⟩ := exec_enc_next hb hexec
        refine ⟨hdoes.profile_or_constructed.imp id ?_, .inl rfl⟩
        rintro ⟨clkHz, cap, ext, inv, rfl, he⟩
        exact ⟨cw, rest, clkHz, cap, ext, inv, hpending, hdecode, he⟩
      | dec =>
        obtain ⟨d, n, r, hdoes, rfl⟩ := exec_dec_next hb hexec
        refine ⟨.inl ⟨rfl, rfl⟩, hdoes.profile_or_constructed.imp id ?_⟩
        rintro ⟨clkHz, marginUs, ext, inv, rfl, hd⟩
        exact ⟨cw, rest, clkHz, marginUs, ext, inv, hpending, hdecode, hd⟩
    · rw [State.respond_enc, State.respond_dec]
      exact ⟨.inl ⟨rfl, rfl⟩, .inl rfl⟩
  | rxPlace handle ws =>
    obtain ⟨m, rfl⟩ := runRxPlace_next ha
    exact ⟨.inl ⟨rfl, rfl⟩, .inl rfl⟩
  | rxFree handle =>
    obtain ⟨m, rfl⟩ := runRxFree_next ha
    exact ⟨.inl ⟨rfl, rfl⟩, .inl rfl⟩
  | txRead index =>
    obtain ⟨w, rfl⟩ := runTxRead_next ha
    exact ⟨.inl ⟨rfl, rfl⟩, .inl rfl⟩

/-! ## What no action looks at: the issued actions and the read port -/

/-- The state with other actions issued and another word on the read port. -/
def State.withHostSide (s : State) (as : List HostAction) (o : Option Entry) : State :=
  { s with pending := as, txOut := o }

/-- A command does the same whatever is issued and whatever stands on the read port. -/
theorem exec_withHostSide (h : exec i s = .next t) (as : List HostAction) (o : Option Entry) :
    exec i (s.withHostSide as o) = .next (t.withHostSide as o) := by
  cases hb : i.block with
  | enc =>
    obtain ⟨e, r, hdoes, rfl⟩ := exec_enc_next hb h
    exact exec_of_encDoes hdoes
  | dec =>
    obtain ⟨d, n, r, hdoes, rfl⟩ := exec_dec_next hb h
    exact exec_of_decDoes hdoes

/-- No command writes the read port. -/
theorem exec_keeps_txOut (h : exec i s = .next t) : t.txOut = s.txOut := by
  cases hb : i.block with
  | enc =>
    obtain ⟨e, r, -, rfl⟩ := exec_enc_next hb h
    rfl
  | dec =>
    obtain ⟨d, n, r, -, rfl⟩ := exec_dec_next hb h
    rfl

/-- An action does the same whatever is issued and whatever stands on the read port, up to what it leaves there. -/
theorem runAction_withHostSide {a : HostAction} (h : runAction a s = .next t) (as : List HostAction)
    (o : Option Entry) : ∃ o', runAction a (s.withHostSide as o) = .next (t.withHostSide as o') ∧
      (o = s.txOut → o' = t.txOut) := by
  cases a with
  | command cw =>
    obtain ⟨i, hdecode, hexec⟩ | ⟨⟨e, hdecode⟩, rfl⟩ := runCommand_cases h
    · refine ⟨o, ?_, fun ho => ho.trans (exec_keeps_txOut hexec).symm⟩
      rw [runAction, runCommand, hdecode]
      exact exec_withHostSide hexec as o
    · refine ⟨o, ?_, fun ho => ?_⟩
      · rw [runAction, runCommand, hdecode]
        simp only [runIllegal, raiseError_eq]
        cases routeOf cw <;> rfl
      · cases routeOf cw <;> exact ho
  | rxPlace handle ws =>
    obtain rfl | hh := eq_or_ne handle 0
    · rw [runAction, (runRx_null ws s).1] at h; cases h
    · cases ws with
      | nil => rw [runAction, runRxPlace_nil s hh] at h; cases h; exact ⟨o, runRxPlace_nil _ hh, id⟩
      | cons w ws =>
        rw [runAction, runRxPlace_eq s hh (List.cons_ne_nil w ws)] at h
        cases h
        exact ⟨o, runRxPlace_eq _ hh (List.cons_ne_nil w ws), id⟩
  | rxFree handle =>
    obtain rfl | hh := eq_or_ne handle 0
    · rw [runAction, (runRx_null [] s).2] at h; cases h
    · rw [runAction, runRxFree_eq s hh] at h; cases h; exact ⟨o, runRxFree_eq _ hh, id⟩
  | txRead index =>
    obtain ⟨hs, hj, w, hw, rfl⟩ := written_of_runTxRead h
    exact ⟨some w, runTxRead_written hs hj hw, fun _ => rfl⟩

/-! ## Runs of steps (R245) -/

/-- In particular an action does the same whatever is issued. -/
theorem runAction_withPending {a : HostAction} (h : runAction a s = .next t) (as : List HostAction) :
    runAction a (s.withPending as) = .next (t.withPending as) := by
  obtain ⟨o, hrun, ho⟩ := runAction_withHostSide h as s.txOut
  rw [ho rfl] at hrun
  exact hrun

/-- So it leaves what is issued as it was. -/
theorem runAction_keeps_pending {a : HostAction} (h : runAction a s = .next t) : t.pending = s.pending := by
  have hrun : runAction a s = .next (t.withPending s.pending) := runAction_withPending h s.pending
  have heq : t = t.withPending s.pending := Host.Outcome.next.inj (h.symm.trans hrun)
  rw [heq, State.withPending_pending]

theorem actAll_keeps_pending {as : List HostAction} (h : actAll as s = .next t) : t.pending = s.pending := by
  induction as generalizing s with
  | nil => cases h; rfl
  | cons a as ih =>
    rw [actAll] at h
    cases ha : runAction a s with
    | next u => rw [ha] at h; exact (ih h).trans (runAction_keeps_pending ha)
    | fault | refused => rw [ha] at h; cases h

/-- A run goes on after its first step. -/
theorem run_succ_of_step {n : Nat} (h : step s = .next t) : core.run (n + 1) s = core.run n t := by
  have hstep : core.step s = .next t := h
  simp only [Host.Core.run, hstep]

/-- As many steps as actions are issued do them all. -/
theorem run_of_actAll {as : List HostAction} (h : actAll as s = .next t) :
    core.run as.length (s.withPending as) = .next (t.withPending []) := by
  induction as generalizing s with
  | nil => cases h; rfl
  | cons a as ih =>
    rw [actAll] at h
    cases ha : runAction a s with
    | next u =>
      rw [ha] at h
      have hstep : step (s.withPending (a :: as)) = .next (u.withPending as) := runAction_withPending ha as
      exact (run_succ_of_step hstep).trans (ih h)
    | fault | refused => rw [ha] at h; cases h

/-- Settles O54: the steps do the actions, and then nothing is issued. -/
theorem stepsRunTheIssuedActionsInOrder : Obligations.StepsRunTheIssuedActionsInOrder := by
  intro as s t hs h
  have hidle : t.pending = [] := (actAll_keeps_pending h).trans hs
  refine ⟨?_, stepRunsTheHostsOtherActions.1 t hidle⟩
  have hrun := run_of_actAll h
  rwa [State.withPending, ← hidle] at hrun

/-! ## What is observed of a run (R245) -/

/-- What is observed of an action is its response, and ENC's entries with a count: neither is on the host's side. -/
theorem observed_withHostSide (a : HostAction) (s : State) (as : List HostAction) (o : Option Entry) :
    observed a (s.withHostSide as o) = observed a s := by
  have hport (b : SubBlock) : observedResponse b (s.withHostSide as o) = observedResponse b s := by cases b <;> rfl
  cases a with
  | command cw => simp only [observed, hport]
  | rxPlace | rxFree | txRead => rfl

/-- After an action that has a next state the run goes on there. -/
theorem observe_cons_next {a : HostAction} (as : List HostAction) (h : runAction a s = .next t) :
    observe (a :: as) s = observed a t ++ observe as t := by
  simp only [observe, h]

/-- An action that has none ends the run. -/
theorem observe_cons_stop {a : HostAction} (as : List HostAction) (h : ∀ t, runAction a s ≠ .next t) :
    observe (a :: as) s = [] := by
  rw [observe]
  cases ha : runAction a s with
  | next t => exact absurd ha (h t)
  | fault | refused => rfl

/-- The observable outcome of a run does not depend on the host's side of the state it starts in. -/
theorem observe_withHostSide (as : List HostAction) (s : State) (ps : List HostAction) (o : Option Entry) :
    observe as (s.withHostSide ps o) = observe as s := by
  induction as generalizing s o with
  | nil => rfl
  | cons a as ih =>
    by_cases h : ∃ t, runAction a s = .next t
    · obtain ⟨t, ht⟩ := h
      obtain ⟨o', ht', -⟩ := runAction_withHostSide ht ps o
      rw [observe_cons_next as ht, observe_cons_next as ht', observed_withHostSide, ih]
    · rw [not_exists] at h
      rw [observe_cons_stop as h, observe_cons_stop as]
      intro t' ht'
      obtain ⟨o', ht, -⟩ := runAction_withHostSide ht' s.pending s.txOut
      exact h _ ht

/-- Settles O56: the read changes the read port alone and is no observation itself. -/
theorem readsOfTxbufAreNotObserved : Obligations.ReadsOfTxbufAreNotObserved := by
  intro before after s t u j hbefore hread
  induction before generalizing s with
  | nil =>
    cases hbefore
    rw [List.nil_append, List.nil_append, observe_cons_next after hread]
    obtain ⟨w, rfl⟩ := runTxRead_next hread
    exact observe_withHostSide after t t.pending (some w)
  | cons a before ih =>
    rw [actAll] at hbefore
    cases ha : runAction a s with
    | next s' =>
      rw [ha] at hbefore
      rw [List.cons_append, List.cons_append, observe_cons_next _ ha, observe_cons_next _ ha, ih s' hbefore]
    | fault | refused => rw [ha] at hbefore; cases hbefore

end Sys2Proof.Machine
end

section
/-! SUPPORT. Laws (spec/44_laws.md) and what they rest on: the redundancy convention's forms, the boundaries of Match, the
margin bound of Distinguishable, the other polarity, the order of failures. -/

namespace Sys2Proof.Machine

variable {s t : State} {p : TimingProfile}

/-! ## The redundancy convention (R131) -/

/-- Two bytes are complements exactly when their exclusive or is all ones. -/
theorem xor_eq_0xFF_iff (x y : BitVec 8) : x ^^^ y = 0xFF ↔ x = ~~~y := by
  have hones : (0xFF : BitVec 8) = BitVec.allOnes 8 := rfl
  rw [hones, ← BitVec.xor_left_inj y, BitVec.xor_assoc, BitVec.xor_self, BitVec.xor_zero, BitVec.allOnes_xor]

/-- Settles O28: each of the three pairs, in its other two forms. -/
theorem redundancyConvention : Obligations.RedundancyConvention := by
  refine fun a c => ⟨redundant_iff a c, ?_, ?_⟩
  · rw [xor_eq_0xFF_iff, xor_eq_0xFF_iff, xor_eq_0xFF_iff]
    exact redundant_iff a c
  · have swap (x y : BitVec 8) : y = ~~~x ↔ x = ~~~y := eq_comm.trans BitVec.not_eq_comm
    rw [swap, swap (c.extractLsb' 16 8), swap (c.extractLsb' 0 8)]
    exact redundant_iff a c

/-! ## The boundaries of Match (R155, R185) -/

/-- A margin of 0 matches nothing. -/
theorem tolerates_margin_zero (d : Duration) (t : Tick) : tolerates d t 0 = false := by
  have hzero : (0 : Tick).toNat = 0 := rfl
  rw [Bool.eq_false_iff, ne_eq, tolerates_iff, hzero]
  omega

/-- Settles O36: the strict window at each of its boundaries, over the integers. -/
theorem matchBoundaries : Obligations.MatchBoundaries := by
  intro d t m
  have hd := d.isLt
  have hfalse := Bool.eq_false_iff.trans (not_congr (tolerates_iff d t m))
  have hpos : m ≠ 0 → 0 < m.toNat := BitVec.toNat_pos_of_ne_zero
  refine ⟨?_, ?_, fun hm hdist => ?_, fun hm hdist => ?_, fun hdist => ?_, fun hdist => ?_, ?_, fun hfar => ?_⟩
  · rintro rfl
    exact tolerates_margin_zero d t
  · rintro rfl
    have hone : (1 : Tick).toNat = 1 := rfl
    rw [tolerates_iff, hone]
    omega
  · have := hpos hm
    rw [tolerates_iff]
    omega
  · have := hpos hm
    rw [tolerates_iff]
    omega
  · rw [hfalse]
    omega
  · rw [hfalse]
    omega
  · rintro rfl
    exact tolerates_zero_iff d m
  · rw [hfalse]
    omega

/-! ## Distinguishable as a bound on the margin (R156) -/

/-- A margin of 0, or at most half the distance of the second durations, keeps the templates apart. -/
theorem distinguishable_of_margin_le
    (h : p.margin = 0 ∨ 2 * (p.margin.toNat : Int) - 1 ≤ p.ticks.l1Lo.toNat - p.ticks.l0Lo.toNat) :
    Distinguishable p := by
  rintro ⟨d1, d2, -, hzero, -, hone⟩
  obtain hm | hm := h
  · rw [hm, tolerates_margin_zero] at hzero
    cases hzero
  · rw [tolerates_iff] at hzero hone
    omega

/-- A larger margin does not, where the templates share their first duration and fit an entry: the second duration at the
near end of logic 1's window matches both. -/
theorem margin_le_of_distinguishable (hp : Distinguishable p) (hr : representable p.ticks = true)
    (hhi : p.ticks.l0Hi = p.ticks.l1Hi) (hlo : p.ticks.l0Lo.toNat ≤ p.ticks.l1Lo.toNat) :
    p.margin = 0 ∨ 2 * (p.margin.toNat : Int) - 1 ≤ p.ticks.l1Lo.toNat - p.ticks.l0Lo.toNat := by
  by_contra hfar
  rw [not_or, not_le] at hfar
  obtain ⟨hm, hfar⟩ := hfar
  have hpos := BitVec.toNat_pos_of_ne_zero hm
  have hfit := (representable_iff p.ticks).1 hr
  have hfitHigh : p.ticks.l1Hi.toNat ≤ Config.durMax := hfit .l1Hi
  have hfitLow : p.ticks.l1Lo.toNat ≤ 32767 := hfit .l1Lo
  have hhigh : tolerates (durationOf p.ticks.l1Hi) p.ticks.l1Hi p.margin = true := by
    rw [tolerates_iff, durationOf_toNat hfitHigh]
    omega
  have hnear : (BitVec.ofNat 15 (p.ticks.l1Lo.toNat - (p.margin.toNat - 1))).toNat =
      p.ticks.l1Lo.toNat - (p.margin.toNat - 1) := by
    rw [BitVec.toNat_ofNat]
    omega
  refine hp ⟨durationOf p.ticks.l1Hi, BitVec.ofNat 15 (p.ticks.l1Lo.toNat - (p.margin.toNat - 1)), by rwa [hhi], ?_,
    hhigh, ?_⟩
  all_goals
    rw [tolerates_iff, hnear]
    omega

/-- Settles O39: the bound in both directions, and its value at 1 MHz. -/
theorem distinguishableIsAMarginBound : Obligations.DistinguishableIsAMarginBound := by
  intro clkHz m inv ext
  have hbound (h : clkHz.toNat ≤ 5957818) :
      Distinguishable { ticks := ticksFor clkHz, margin := m, inverted := inv, ext := ext } ↔
        m = 0 ∨ 2 * (m.toNat : Int) - 1 ≤ (ticksFor clkHz).l1Lo.toNat - (ticksFor clkHz).l0Lo.toNat :=
    ⟨fun hp => margin_le_of_distinguishable hp (representable_of_le_ceiling h) rfl
      (tick_ticksFor_le_tick clkHz (j := .l0Lo) (k := .l1Lo) (by decide)),
      distinguishable_of_margin_le (p := ⟨_, m, inv, ext⟩)⟩
  refine ⟨hbound, distinguishable_of_margin_le (p := ⟨_, m, inv, ext⟩), ?_⟩
  rintro rfl
  have hlow : (ticksFor 1000000).l0Lo.toNat = 560 ∧ (ticksFor 1000000).l1Lo.toNat = 1690 := by decide
  have hzero : (0 : Tick).toNat = 0 := rfl
  rw [hbound (by decide), hlow.1, hlow.2, ← BitVec.toNat_inj, hzero]
  omega

/-! ## D_DECODE completes (R54, U5) -/

/-- Settles O41: listed entries are read, and the frame read or not is the answer. -/
theorem decodeOfAnySequenceCompletes : Obligations.DecodeOfAnySequenceCompletes := by
  refine fun s => ⟨fun _ _ => rxWord_listed, fun hs href => ?_⟩
  cases hframe : decodeFrame s.dec.profile (rxWord s s.dec.ref) with
  | none => exact ⟨_, exec_dDecode_failure hs href hframe, .inr rfl⟩
  | some data => exact ⟨_, exec_dDecode_ok hs href hframe, .inl ⟨_, rfl⟩⟩

/-! ## The order of failures (R210) -/

/-- Settles O46: the validation precedes the appends, the null reference the length, and both operands are tested
alike. -/
theorem failurePriority : Obligations.FailurePriority :=
  ⟨fun _ _ _ hs hext hcode _ => ⟨_, exec_eBuild_rejected hs hext hcode, rfl⟩,
    fun _ length hs _ => ⟨_, exec_dInput_null length hs rfl, rfl⟩,
    fun _ _ _ => ⟨_, exec_eCfg_rejected (.inl rfl), rfl⟩⟩

/-! ## The other polarity (R186) -/

/-- A sequence whose entry 0 is no head holds no frame. -/
theorem decodeFrame_eq_none_of_headOk {e : Nat → Entry} (h : headOk p (e 0) = false) : decodeFrame p e = none := by
  rw [decodeFrame, h]
  rfl

/-- Settles O51: the head's levels are those of the builder's polarity. -/
theorem otherPolarityFailsTheDecode : Obligations.OtherPolarityFailsTheDecode := by
  intro s a c p hs href hinv hrx
  refine ⟨_, exec_dDecode_failure hs href (decodeFrame_eq_none_of_headOk ?_)⟩
  have hhead := getElem?_loopback_frameWords p a c (i := 0) (by decide)
  rw [← hrx] at hhead
  rw [rxWord_listed hhead, Bool.eq_false_iff]
  intro hok
  obtain ⟨-, hlevel, -, -⟩ := (matchesPair_iff ..).1 hok
  rw [targetWord, level2_entryOf] at hlevel
  exact hinv hlevel

end Sys2Proof.Machine
end

section
/-! SUPPORT. Moving one duration of a decodable sequence (spec/44_laws.md rule R185, log entry 18): what one replaced entry
does to the frame read, and which template a moved entry matches. -/

namespace Sys2Proof.Machine

variable {s : State} {p : TimingProfile} {data : FrameData} {e : Nat → Entry} {i k : Nat} {w v : Entry}

/-! ## The stored sequence with one entry replaced -/

/-- D_DECODE sees the new entry at its index and what it saw before elsewhere, free words included. -/
theorem rxWord_withStoredEntry (hw : (rxEntries s.rxseq s.dec.ref)[i]? = some w) (v : Entry) :
    rxWord (withStoredEntry s i v) s.dec.ref = Function.update (rxWord s s.dec.ref) i v := by
  obtain ⟨hlt, -⟩ := List.getElem?_eq_some_iff.1 hw
  funext j
  rw [rxWord, withStoredEntry, State.withRxseq_rxseq, rxEntries_write_same, List.getElem?_set]
  obtain rfl | hne := eq_or_ne i j
  · rw [if_pos rfl, if_pos hlt, Function.update_self, Option.getD_some]
  · rw [if_neg hne, Function.update_of_ne hne.symm]
    rfl

/-! ## The two templates of a data bit -/

/-- A data bit's entry matches its targets when it matches the bit's own template. -/
theorem matchesPair_targetsAt_bit (p : TimingProfile) (data : FrameData) (hk : k < 48) (w : Entry) :
    matchesPair p (targetsAt p data (1 + k)).1 (targetsAt p data (1 + k)).2 w =
      if data.getLsbD k then isOne p w else isZero p w := by
  rw [targetsAt_bit p data hk]
  split <;> rfl

theorem matchesOtherBit_bit (p : TimingProfile) (data : FrameData) (hk : k < 48) (v : Entry) :
    matchesOtherBit p data (1 + k) v = if data.getLsbD k then isZero p v else isOne p v := by
  rw [matchesOtherBit, decide_eq_true (by omega), Bool.true_and, Nat.add_sub_cancel_left]

/-- An entry that does not match the template of `b` reads as the other bit if it matches that one's, and else not at
all. -/
theorem bitOf_of_own_false {b : Bool} (h : (if b then isOne p v else isZero p v) = false) :
    bitOf p v = if (if b then isZero p v else isOne p v) then some !b else none := by
  cases b with
  | false =>
    have hzero : isZero p v = false := h
    rw [bitOf, hzero]
    cases isOne p v <;> rfl
  | true =>
    have hone : isOne p v = false := h
    rw [bitOf, hone]
    cases isZero p v <;> rfl

/-- The entries of a frame that is read match the targets of its data bits. -/
theorem matches_targets_of_decodeFrame (h : decodeFrame p e = some data) (hi : i < 50) :
    matchesPair p (targetsAt p data i).1 (targetsAt p data i).2 (e i) = true := by
  obtain ⟨hhead, hend, -⟩ := (decodeFrame_ne_none_iff p e).1 (by simp [h])
  obtain rfl | h0 := eq_or_ne i 0
  · exact hhead
  obtain rfl | h49 := eq_or_ne i 49
  · exact hend
  obtain ⟨k, rfl⟩ := Nat.exists_eq_add_of_le (Nat.one_le_iff_ne_zero.2 h0)
  have hk : k < 48 := by omega
  have hbit := (bitOf_eq_some_iff ..).1 (bitOf_of_decodeFrame h hk)
  rw [matchesPair_targetsAt_bit p data hk]
  cases hb : data.getLsbD k with
  | false => simpa [hb] using hbit.2
  | true => simpa [hb] using hbit.1

/-! ## The frame read after one entry is replaced -/

/-- An entry that matches neither its targets nor the other bit's template leaves no frame. -/
theorem decodeFrame_update_eq_none (hi : i < 50)
    (hown : matchesPair p (targetsAt p data i).1 (targetsAt p data i).2 v = false)
    (hother : matchesOtherBit p data i v = false) : decodeFrame p (Function.update e i v) = none := by
  by_contra hread
  obtain ⟨hhead, hend, hbits⟩ := (decodeFrame_ne_none_iff ..).1 hread
  obtain rfl | h0 := eq_or_ne i 0
  · rw [Function.update_self] at hhead
    exact Bool.false_ne_true (hown.symm.trans hhead)
  obtain rfl | h49 := eq_or_ne i 49
  · rw [Function.update_self] at hend
    exact Bool.false_ne_true (hown.symm.trans hend)
  obtain ⟨k, rfl⟩ := Nat.exists_eq_add_of_le (Nat.one_le_iff_ne_zero.2 h0)
  have hk : k < 48 := by omega
  rw [matchesPair_targetsAt_bit p data hk] at hown
  rw [matchesOtherBit_bit p data hk] at hother
  refine hbits k hk ?_
  rw [Function.update_self, bitOf_of_own_false hown, hother]
  rfl

/-- An entry that matches the other bit's template and not its own reads as the other bit. -/
theorem decodeFrame_update_eq_flipped (h : decodeFrame p e = some data) (hk : k < 48)
    (hown : matchesPair p (targetsAt p data (1 + k)).1 (targetsAt p data (1 + k)).2 v = false)
    (hother : matchesOtherBit p data (1 + k) v = true) :
    decodeFrame p (Function.update e (1 + k) v) = some (data ^^^ BitVec.twoPow 48 k) := by
  obtain ⟨hhead, hend, -⟩ := (decodeFrame_ne_none_iff p e).1 (by simp [h])
  rw [matchesPair_targetsAt_bit p data hk] at hown
  rw [matchesOtherBit_bit p data hk] at hother
  refine decodeFrame_eq_some ?_ ?_ fun j hj => ?_
  · rwa [Function.update_of_ne (by omega)]
  · rwa [Function.update_of_ne (by omega)]
  · rw [BitVec.getLsbD_xor, BitVec.getLsbD_twoPow]
    obtain rfl | hne := eq_or_ne j k
    · rw [Function.update_self, bitOf_of_own_false hown, hother]
      simp [hk]
    · rw [Function.update_of_ne (by omega), bitOf_of_decodeFrame h hj]
      simp [hne.symm]

/-- With Distinguishable, an entry that matches its targets leaves the frame as it is. -/
theorem decodeFrame_update_eq_self (hp : Distinguishable p) (h : decodeFrame p e = some data)
    (hown : matchesPair p (targetsAt p data i).1 (targetsAt p data i).2 v = true) :
    decodeFrame p (Function.update e i v) = some data := by
  refine decodeFrame_of_matches_targets hp fun j hj => ?_
  obtain rfl | hne := eq_or_ne j i
  · rwa [Function.update_self]
  · rw [Function.update_of_ne hne]
    exact matches_targets_of_decodeFrame h hj

/-! ## Which template a moved entry matches (R154, R155) -/

/-- A duration at the margin from its target is outside the window. -/
theorem tolerates_at_margin {d : Duration} {t m : Tick} (h : |(d.toNat : Int) - t.toNat| = m.toNat) :
    tolerates d t m = false := by
  rw [Bool.eq_false_iff, ne_eq, tolerates_iff_abs_lt, h]
  exact lt_irrefl _

/-- And outside any window at least two margins away from its own. -/
theorem tolerates_far {d : Duration} {t t' m : Tick} (h : |(d.toNat : Int) - t.toNat| = m.toNat)
    (hfar : 2 * m.toNat + t.toNat ≤ t'.toNat ∨ 2 * m.toNat + t'.toNat ≤ t.toNat) : tolerates d t' m = false := by
  rw [Bool.eq_false_iff, ne_eq, tolerates_iff]
  obtain hside | hside := (abs_eq (Int.natCast_nonneg _)).1 h <;> omega

/-- An entry with one duration moved to the margin does not match its targets. -/
theorem matchesPair_of_moved_to_margin {targets : Tick × Tick} (h : MovedFromTarget p.margin.toNat targets w v) :
    matchesPair p targets.1 targets.2 v = false := by
  obtain ⟨-, -, ⟨-, hd⟩ | ⟨-, hd⟩⟩ := h
  · simp [matchesPair, tolerates_at_margin hd]
  · simp [matchesPair, tolerates_at_margin hd]

/-- An entry with one duration moved to the margin less 1 matches the targets that it matched before. -/
theorem matchesPair_of_moved_inside {targets : Tick × Tick} (h : MovedFromTarget (p.margin.toNat - 1) targets w v)
    (hw : matchesPair p targets.1 targets.2 w = true) : matchesPair p targets.1 targets.2 v = true := by
  obtain ⟨hl1, hl2, hmoved⟩ := h
  obtain ⟨hwl1, hwl2, hwd1, hwd2⟩ := (matchesPair_iff ..).1 hw
  have hpos : 0 < p.margin.toNat := by
    have := (tolerates_iff_abs_lt ..).1 hwd1
    exact_mod_cast (abs_nonneg _).trans_lt this
  have inside {d : Duration} {t : Tick} (hd : |(d.toNat : Int) - t.toNat| = (p.margin.toNat - 1 : Nat)) :
      tolerates d t p.margin = true := by
    rw [tolerates_iff_abs_lt, hd]
    omega
  refine (matchesPair_iff ..).2 ⟨hl1.trans hwl1, hl2.trans hwl2, ?_⟩
  obtain ⟨hd2, hd1⟩ | ⟨hd1, hd2⟩ := hmoved
  · exact ⟨inside hd1, hd2 ▸ hwd2⟩
  · exact ⟨hd1 ▸ hwd1, inside hd2⟩

/-- Where the templates share their first duration and at least one tick lies between their second windows, no entry moved
to the margin matches the other bit. -/
theorem matchesOtherBit_of_apart (hhi : p.ticks.l0Hi = p.ticks.l1Hi)
    (hlo : 2 * p.margin.toNat + p.ticks.l0Lo.toNat ≤ p.ticks.l1Lo.toNat) (hk : k < 48)
    (h : MovedFromTarget p.margin.toNat (targetsAt p data (1 + k)) w v) : matchesOtherBit p data (1 + k) v = false := by
  obtain ⟨-, -, hmoved⟩ := h
  rw [matchesOtherBit_bit p data hk]
  rw [targetsAt_bit p data hk] at hmoved
  cases hb : data.getLsbD k with
  | false =>
    rw [hb] at hmoved
    obtain ⟨-, hd⟩ | ⟨-, hd⟩ := hmoved
    · have hfirst : tolerates (dur1 v) p.ticks.l0Hi p.margin = false := tolerates_at_margin hd
      simp [isOne, matchesPair, ← hhi, hfirst]
    · simp [isOne, matchesPair, tolerates_far hd (.inl hlo)]
  | true =>
    rw [hb] at hmoved
    obtain ⟨-, hd⟩ | ⟨-, hd⟩ := hmoved
    · have hfirst : tolerates (dur1 v) p.ticks.l1Hi p.margin = false := tolerates_at_margin hd
      simp [isZero, matchesPair, hhi, hfirst]
    · simp [isZero, matchesPair, tolerates_far hd (.inr hlo)]

/-! ## The statement -/

/-- A scan code in the response is a frame that a configured DEC read from its reference. -/
theorem decoded_of_scan {u : State} {code : ScanCode} (h : exec .dDecode s = .next u)
    (hcode : u.decRsp = some (.ok (.scan code))) : ∃ data, s.dec.configured = true ∧ s.dec.ref ≠ 0 ∧
      decodeFrame s.dec.profile (rxWord s s.dec.ref) = some data ∧
      code = { address := addressOf data, command := commandOf data, isRepeat := false } := by
  obtain ⟨d, n, r, hdoes, rfl⟩ := exec_dec_next rfl h
  obtain rfl : r = .ok (.scan code) := Option.some.inj hcode
  cases hdoes with
  | decoded hs href hframe => exact ⟨_, hs, href, hframe, rfl⟩

/-- Only a data bit has another bit to match. -/
theorem exists_bit_of_matchesOtherBit (h : matchesOtherBit p data i v = true) : ∃ k < 48, i = 1 + k := by
  obtain ⟨hrange, -⟩ := Bool.and_eq_true_iff.1 h
  have := of_decide_eq_true hrange
  exact ⟨i - 1, by omega, by omega⟩

/-- Settles O57: the moved entry fails its own template, and the other bit's decides; within the margin it matches its own
still. -/
theorem movedDurationAtTheWindowsEdge : Obligations.MovedDurationAtTheWindowsEdge := by
  intro s u code i w v hu hcode hi hw
  obtain ⟨data, hs, href, hframe, rfl⟩ := decoded_of_scan hu hcode
  have hread := rxWord_withStoredEntry hw v
  simp only [dataOf_addressOf_commandOf]
  refine ⟨fun hmoved => ⟨fun hother => ?_, fun hapart => ?_, fun hother => ?_⟩, fun hmoved hdist => ?_⟩
  · exact ⟨_, exec_dDecode_failure hs href (hread ▸ decodeFrame_update_eq_none hi
      (matchesPair_of_moved_to_margin hmoved) hother), rfl⟩
  · by_contra hother
    obtain ⟨k, hk, rfl⟩ := exists_bit_of_matchesOtherBit (Bool.eq_true_of_not_eq_false hother)
    obtain h0 | h49 | ⟨hhi, hlo⟩ := hapart
    · omega
    · omega
    · exact hother (matchesOtherBit_of_apart hhi hlo hk hmoved)
  · obtain ⟨k, hk, rfl⟩ := exists_bit_of_matchesOtherBit hother
    refine ⟨_, _, exec_dDecode_ok hs href (hread ▸ decodeFrame_update_eq_flipped hframe hk
      (matchesPair_of_moved_to_margin hmoved) hother), rfl, fun j hj => ?_⟩
    rw [dataOf_addressOf_commandOf, BitVec.getLsbD_xor, BitVec.getLsbD_twoPow, decide_eq_true hk, Bool.true_and]
    congr 2
    simp only [eq_iff_iff]
    omega
  · have hown := matches_targets_of_decodeFrame hframe hi
    rw [rxWord_listed hw] at hown
    exact ⟨_, exec_dDecode_ok hs href (hread ▸ decodeFrame_update_eq_self hdist hframe
      (matchesPair_of_moved_inside hmoved hown)), rfl⟩

end Sys2Proof.Machine
end
